-- ==== Sys2Proof/Word.lean ====
section
/-! DEFINITION. The words of the block (spec/00_scope.md R9): bit 0 is the least significant bit, every value is
unsigned, and `+` on an N-bit word is addition modulo `2^N`, which is `BitVec`'s own addition. A single bit that only
says yes or no is a `Bool` (true is 1). -/

namespace Sys2Proof

/-- A display pattern: 8 bits whose meaning the block never reads (spec/20_memory.md R33). -/
abbrev Pattern := BitVec 8

/-- The input word IN3 as bits, `rst` in bit 2, `tick` in bit 1, `key` in bit 0 (spec/30_encoding.md R40). -/
abbrev InputWord := BitVec 3

/-- The event vector EV4 as bits, `rst` in bit 3, `tick` in bit 2, `rise` in bit 1, `fall` in bit 0
(spec/30_encoding.md R41). -/
abbrev EventVector := BitVec 4

end Sys2Proof
end

