-- ==== Sys2Proof/Config.lean ====
section
/-! DEFINITION. The configuration record of the hardware (spec/00_scope.md R6): fixed when the hardware is built, read by
the operations, written by none (spec/10_state.md R28). Its legal values are in WellFormed.lean (R7). -/

namespace Sys2Proof

/-- The fields of spec/00_scope.md R6, under the spec's names. A threshold is the configured number itself; R46 compares
it with the counter as an unsigned number. -/
structure Config where
  /-- `T_LOW`: a release below it is noise. -/
  tLow : Nat
  /-- `T_MID`: the last value that is a dot. -/
  tMid : Nat
  /-- `T_HIGH`: the last value that is a dash. -/
  tHigh : Nat
  /-- `T_LONG`: the secondary long-press limit. The spec leaves its value OPEN (spec/92_eei_decisions.md D16). -/
  tLong : Nat
  /-- `T_MAX`: the count at which TIMEOUT runs. -/
  tMax : Nat
  /-- `CTR_W`: width of the elapsed counter. -/
  ctrW : Nat
  /-- `BUF_W`: width of the symbol buffer. -/
  bufW : Nat
  /-- `CNT_W`: width of the symbol count. -/
  cntW : Nat
  /-- `PAT_BLANK`. -/
  patBlank : Pattern
  /-- `PAT_ERROR`. -/
  patError : Pattern
  /-- `RELEASE_STOPS_TIMING` (spec/90_conflicts.md C1). -/
  releaseStopsTiming : Bool
  /-- `TIMEOUT_CLEARS_LATCH` (spec/90_conflicts.md C2). -/
  timeoutClearsLatch : Bool
  /-- `TICK_PERIOD_US`: informational; no rule reads it. -/
  tickPeriodUs : Nat
  deriving DecidableEq, Repr

namespace Config

/-- The identity string of the block (spec/00_scope.md R2). -/
def identity : String := "ece459-lab2/debounce_and_edge_detect spec-1 (source revision v7)"

/-- The defaults of spec/00_scope.md R6 around a given `T_LONG`, which has no default. -/
def referenceWith (tLong : Nat) : Config where
  tLow := 1200
  tMid := 8000
  tHigh := 16000
  tLong := tLong
  tMax := 40000
  ctrW := 16
  bufW := 8
  cntW := 8
  patBlank := 0x00
  patError := 0x79
  releaseStopsTiming := true
  timeoutClearsLatch := true
  tickPeriodUs := 25

/-- `REF` of spec/95_test_vectors.md. Its `T_LONG` is the spec's test value and comes from no source: DESIGN CHOICE
(unsafe; log entry 1). -/
def reference : Config := referenceWith 14000

/-- `M41`, the §4.1 mode (spec/00_scope.md R6): the reference configuration whose release does not stop timing. -/
def mode41 : Config := { reference with releaseStopsTiming := false }

/-- `TCL0` of spec/95_test_vectors.md: the reference configuration whose timeout keeps the latch. -/
def latchKept : Config := { reference with timeoutClearsLatch := false }

/-- The wall-clock length of a number of ticks, in microseconds (spec/00_scope.md R8, spec/70_reset_and_hazards.md R99).
The machine never uses it. -/
def micros (c : Config) (ticks : Nat) : Nat := ticks * c.tickPeriodUs

end Config

end Sys2Proof
end

