-- ==== Sys2Proof/Syntax.lean ====
section
/-! DEFINITION. What is sampled at a step (spec/30_encoding.md R40), the operations a step can be (R42: the seven rows of
spec/opcode_table.json, none with an operand field, R46), and the trace syntax programs are written in (R47, R48). -/

namespace Sys2Proof

/-- The input word IN3: the levels of the ports `rst`, `tick` and `key` at one clock edge (spec/10_state.md R14). Each is
a Bool, so a level that is neither 0 nor 1 cannot be given to the model (spec/30_encoding.md R43). -/
structure In3 where
  rst  : Bool
  tick : Bool
  key  : Bool
  deriving DecidableEq, Repr

/-- The operation of one step, one constructor per row of spec/opcode_table.json. -/
inductive Instr where
  /-- RST, EV4 `1---` (spec/70_reset_and_hazards.md R90). -/
  | rst
  /-- NOP, EV4 `0000` (spec/40_edge_detect.md R53). -/
  | nop
  /-- TICK, EV4 `0100` (spec/41_timer_state_machine.md R60). -/
  | tick
  /-- PRESS, EV4 `0010` (R61). -/
  | press
  /-- RELEASE, EV4 `0001` (R62). -/
  | release
  /-- TICK_PRESS, EV4 `0110` (R63). -/
  | tickPress
  /-- TICK_RELEASE, EV4 `0101` (R64). -/
  | tickRelease
  deriving DecidableEq, Repr

/-- A trace operation (spec/30_encoding.md R47) or one of the pseudo-instructions without a body (R48). -/
inductive TraceOp where
  /-- `RST k`. -/
  | rst (k : Bool)
  /-- `RSTT k`. -/
  | rstt (k : Bool)
  /-- `IDLE k`. -/
  | idle (k : Bool)
  /-- `TICK k`. -/
  | tick (k : Bool)
  /-- `DOWN`. -/
  | down
  /-- `UP`. -/
  | up
  /-- `HOLD n`. -/
  | hold (n : Nat)
  /-- `GAP n`. -/
  | gap (n : Nat)
  /-- `WAIT n k`. -/
  | wait (n : Nat) (k : Bool)
  deriving DecidableEq, Repr

/-- A program in trace syntax, line by line (spec/30_encoding.md R47). A line without `*N` has `times` 1. -/
inductive Trace where
  /-- No line left. -/
  | nil
  /-- The line `op * times`, then the rest. -/
  | line (op : TraceOp) (times : Nat) (rest : Trace)
  /-- The line `REP n { body } * times` (R48), then the rest. That the body is any list of lines, empty or with `REP`s of its
  own, is a DESIGN CHOICE (log entry 12). -/
  | rep (n : Nat) (times : Nat) (body rest : Trace)
  deriving DecidableEq, Repr

end Sys2Proof
end

