-- ==== Sys2Proof/Machine/State.lean ====
section
/-! DEFINITION. The state of the block: the nine registers of spec/10_state.md R16 at the widths of the configuration, the
configuration they are built for, the levels sampled at the current step, and the input words still to come. The block
has no memory (spec/20_memory.md R31) and no program counter (spec/10_state.md R27). -/

namespace Sys2Proof.Machine

/-- The registers of spec/10_state.md R16; no other register exists. -/
structure Regs (c : Config) where
  /-- `key_q`: the key level sampled at the step before (R17). -/
  keyQ     : Bool
  /-- `timing`: TimingState (R18). -/
  timing   : Bool
  /-- `pressed`: PressedLatch (R19). -/
  pressed  : Bool
  /-- `elapsed`: ElapsedCounter (R20). -/
  elapsed  : BitVec c.ctrW
  /-- `buf`: the bits of SymbolBuffer (R21). -/
  buf      : BitVec c.bufW
  /-- `cnt`: the count of SymbolBuffer (R22). -/
  cnt      : BitVec c.cntW
  /-- `disp`: the last pattern written (R23). -/
  disp     : Pattern
  /-- `disp_we` (R24). -/
  dispWe   : Bool
  /-- `timer_clr` (R25). -/
  timerClr : Bool
  deriving DecidableEq, Repr

/-- The whole machine. `config` is fixed for the life of the hardware (spec/10_state.md R28) and no step writes it
(log entry 5). `sample` is the `in` of spec/00_scope.md R10. `inputs` are the words of the run that no step has taken
(spec/70_reset_and_hazards.md R100, log entry 3). -/
structure State where
  config : Config
  regs   : Regs config
  sample : In3
  inputs : List In3
  deriving DecidableEq, Repr

/-- Why the machine stops with a fault: never. The block raises no exception, has no trap and cannot halt
(spec/60_exceptions.md R77), so there is no reason to name. -/
inductive Fault where
  deriving DecidableEq, Repr

/-- Why the model does not take a step. No meaning of an instruction answers any of these. -/
inductive Refusal where
  /-- Raised by an arm of `exec` that has no meaning yet. Safe. No arm of this model raises it. -/
  | notModelled (mnemonic : String)
  /-- Raised by the fetch of a step: the configuration breaks a constraint of spec/00_scope.md R7, and a model refuses
  it. Safe: the hardware of such a configuration goes on (log entry 6). -/
  | configNotWellFormed
  /-- Raised by the fetch of a step: the run has no input word left (spec/70_reset_and_hazards.md R100: the definition
  says nothing of steps after the last word). Safe (log entry 3). -/
  | endOfRun
  /-- Raised by the fetch of a step when the decoder refuses the event vector (spec/30_encoding.md R43). Safe: no input
  word gives such a vector, so no state raises it. -/
  | impossibleEvent
  deriving DecidableEq, Repr

/-- The registers after a reset step with key level `k` (spec/70_reset_and_hazards.md R90, spec/10_state.md section 5). -/
def Regs.reset (c : Config) (k : Bool) : Regs c where
  keyQ     := k
  timing   := false
  pressed  := false
  elapsed  := 0
  buf      := 0
  cnt      := 0
  disp     := c.patBlank
  dispWe   := false
  timerClr := false

/-- The machine of configuration `c` right after a reset step whose key level was `k`, with no input word to come. -/
def State.resetWith (c : Config) (k : Bool) : State where
  config := c
  regs   := Regs.reset c k
  sample := ⟨true, false, k⟩
  inputs := []

/-- The default start of a run (spec/70_reset_and_hazards.md R100): the reference configuration after `RST 0`. The key
level 0 and the `T_LONG` of that configuration are DESIGN CHOICES (log entries 1 and 2). -/
def State.reset : State := State.resetWith Config.reference false

end Sys2Proof.Machine
end

