-- ==== Sys2Proof/WellFormed.lean ====
section
/-! DEFINITION. What is well-formed: a configuration (spec/00_scope.md R7, one check for each of its six constraints), an
event vector (spec/30_encoding.md R43) and a program in trace syntax (R47, R48). An `Instr` carries no operand (R46), so
every `Instr` is well-formed. -/

namespace Sys2Proof

namespace Config

/-- R7 item 1: `0 < T_LOW < T_MID < T_HIGH`. -/
def thresholdsRise (c : Config) : Bool := decide (0 < c.tLow ∧ c.tLow < c.tMid ∧ c.tMid < c.tHigh)

/-- R7 item 2: `T_MID <= T_LONG < T_HIGH`. -/
def longInDashRange (c : Config) : Bool := decide (c.tMid ≤ c.tLong ∧ c.tLong < c.tHigh)

/-- R7 item 3: `T_HIGH < T_MAX`. -/
def highBelowMax (c : Config) : Bool := decide (c.tHigh < c.tMax)

/-- R7 item 4: `T_MAX <= 2^CTR_W - 1`. -/
def counterHoldsMax (c : Config) : Bool := decide (c.tMax ≤ 2 ^ c.ctrW - 1)

/-- R7 item 5: every width is at least 1. -/
def widthsPositive (c : Config) : Bool := decide (1 ≤ c.bufW ∧ 1 ≤ c.cntW ∧ 1 ≤ c.ctrW)

/-- R7 item 6: `PAT_ERROR != PAT_BLANK`. -/
def patternsDiffer (c : Config) : Bool := decide (c.patError ≠ c.patBlank)

/-- A configuration the model takes (spec/00_scope.md R7). -/
def wf (c : Config) : Bool :=
  c.thresholdsRise && c.longInDashRange && c.highBelowMax && c.counterHoldsMax && c.widthsPositive && c.patternsDiffer

end Config

/-- An event vector that an input word can give: `rise` and `fall` are not both 1 (spec/30_encoding.md R43,
spec/40_edge_detect.md R50). -/
def EventVector.possible (v : EventVector) : Bool := !(v.getLsbD 1 && v.getLsbD 0)

/-- The counts the pseudo-instructions ask for: `GAP n` and `WAIT n k` with `n >= 1` (spec/30_encoding.md R48). -/
def TraceOp.wf : TraceOp → Bool
  | .rst _ | .rstt _ | .idle _ | .tick _ | .down | .up | .hold _ => true
  | .gap n => decide (1 ≤ n)
  | .wait n _ => decide (1 ≤ n)

/-- Every line's `*N` has `N >= 1` (spec/30_encoding.md R47) and every operation its own count. R48 gives no range for the `n`
of `REP n` and does not say what a body is: any `n`, 0 too, and any lines, none or further `REP`s too, are well-formed here
(DESIGN CHOICE, log entry 12). -/
def Trace.wf : Trace → Bool
  | .nil => true
  | .line op times rest => op.wf && decide (1 ≤ times) && rest.wf
  | .rep _ times body rest => decide (1 ≤ times) && body.wf && rest.wf

end Sys2Proof
end

