-- ==== Sys2Proof/Machine/Operands.lean ====
section
/-! DEFINITION. Where an operation's values come from (spec/30_encoding.md R46): the comparison of the elapsed counter
with the configured numbers, the class of an accepted release (spec/42_symbol_classifier.md), the operand of APPEND and
the bit it assigns. -/

namespace Sys2Proof.Machine

/-- The four classes of a release (spec/42_symbol_classifier.md R68). -/
inductive SymbolClass where
  | noise
  | dot
  | dash
  | over
  deriving DecidableEq, Repr

/-- The 2-bit code of a class (R71); it is no port and no register. -/
def SymbolClass.code : SymbolClass → BitVec 2
  | .noise => 0b00#2
  | .dot   => 0b01#2
  | .dash  => 0b10#2
  | .over  => 0b11#2

/-- `v >= n` for a register and a configured number, as mathematical integers (spec/00_scope.md R9, spec/30_encoding.md
R46). -/
def atLeast {w : Nat} (v : BitVec w) (n : Nat) : Bool := decide (n ≤ v.toNat)

/-- `v > n` for a register and a configured number. -/
def above {w : Nat} (v : BitVec w) (n : Nat) : Bool := decide (n < v.toNat)

/-- The class of a measured duration (spec/42_symbol_classifier.md R68). -/
def classOf (c : Config) (v : BitVec c.ctrW) : SymbolClass :=
  if !atLeast v c.tLow then .noise
  else if !above v c.tMid then .dot
  else if !above v c.tHigh then .dash
  else .over

/-- The long-press bit, checked independently of the class (R68, R70). -/
def longOf (c : Config) (v : BitVec c.ctrW) : Bool := above v c.tLong

/-- `classify` (R68): a pure function of the value and the configuration (R72). -/
def classify (c : Config) (v : BitVec c.ctrW) : SymbolClass × Bool := (classOf c v, longOf c v)

/-- The operand of the APPEND that a class runs, if it runs one: 0 for a dot, 1 for a dash (R69, spec/30_encoding.md
R46). -/
def SymbolClass.appendOperand : SymbolClass → Option Bool
  | .noise => none
  | .dot   => some false
  | .dash  => some true
  | .over  => none

/-- `v[i] <- b`: assigns the one bit and leaves every other (spec/43_symbol_buffer.md R73). -/
def assignBit {w : Nat} (v : BitVec w) (i : Nat) (b : Bool) : BitVec w :=
  if b then v ||| BitVec.twoPow w i else v &&& ~~~ BitVec.twoPow w i

end Sys2Proof.Machine
end

