-- ==== Sys2Proof/Machine/Flags.lean ====
section
/-! DEFINITION. The flags of the block are the control bits `timing` and `pressed` (spec/41_timer_state_machine.md, its
opening). Here: the control state they make (spec/10_state.md R26), the guards that read them (R56, R58, R59 and the table
of spec/60_exceptions.md R79), and the bits each internal operation leaves (R57, R58, R59, R67). -/

namespace Sys2Proof.Machine

/-- The four values of `(timing, pressed)` (spec/10_state.md R26). -/
inductive ControlState where
  /-- IDLE, `(0, 0)`. -/
  | idle
  /-- TIMING, `(1, 1)`. -/
  | timing
  /-- RELEASED_TIMING, `(1, 0)`. -/
  | releasedTiming
  /-- TIMED_OUT_HELD, `(0, 1)`. -/
  | timedOutHeld
  deriving DecidableEq, Repr

/-- The name of a pair of control bits (R26). -/
def controlOf (timing pressed : Bool) : ControlState :=
  match timing, pressed with
  | false, false => .idle
  | true,  true  => .timing
  | true,  false => .releasedTiming
  | false, true  => .timedOutHeld

/-- The control state of the block (R26). -/
def Regs.control {c : Config} (r : Regs c) : ControlState := controlOf r.timing r.pressed

/-- A tick counts while `timing = 1` (spec/41_timer_state_machine.md R56). -/
def tickCounts {c : Config} (r : Regs c) : Bool := r.timing

/-- The counter after one more tick, modulo `2^CTR_W` (R56). -/
def nextElapsed {c : Config} (r : Regs c) : BitVec c.ctrW := r.elapsed + 1

/-- Whether a tick in this state runs TIMEOUT: it counts, and the incremented value is at least `T_MAX` (R56). -/
def tickTimesOut {c : Config} (r : Regs c) : Bool := tickCounts r && atLeast (nextElapsed r) c.tMax

/-- The PRESS guard (R58). -/
def pressAccepted {c : Config} (r : Regs c) : Bool := !r.timing && !r.pressed

/-- The RELEASE guard (R59). -/
def releaseAccepted {c : Config} (r : Regs c) : Bool := r.pressed

/-- `pressed` after a TIMEOUT (R57). -/
def pressedAfterTimeout (c : Config) (pressed : Bool) : Bool := if c.timeoutClearsLatch then false else pressed

/-- `timing` after an accepted release (R59). -/
def timingAfterRelease (c : Config) (timing : Bool) : Bool := if c.releaseStopsTiming then false else timing

end Sys2Proof.Machine
end

