-- ==== Sys2Proof/Machine/Ops.lean ====
section
/-! DEFINITION. The shared operations on the registers that every step is made of: PULSE_CLEAR and show
(spec/41_timer_state_machine.md R55), the tick phase and TIMEOUT (R56, R57), APPEND (spec/43_symbol_buffer.md R73) and ACT
(spec/42_symbol_classifier.md R69), the press and release phases (R58, R59), the sampling of the key (spec/40_edge_detect.md
R49) and the reset of the registers (spec/70_reset_and_hazards.md R90). The block has no exception to take and none to
return from (spec/60_exceptions.md R77, R82, R83), so there is no such operation. -/

namespace Sys2Proof.Machine

variable {c : Config}

/-- Phase 0 (R55). -/
def pulseClear (w : Regs c) : Regs c := { w with dispWe := false, timerClr := false }

/-- `show(p)` (R55). -/
def showPattern (p : Pattern) (w : Regs c) : Regs c := { w with disp := p, dispWe := true }

/-- TIMEOUT (R57). `buf` and `cnt` stay. -/
def timeout (w : Regs c) : Regs c :=
  showPattern c.patBlank { w with timing := false, elapsed := 0, pressed := pressedAfterTimeout c w.pressed }

/-- The counting half of the tick phase (R56). -/
def countTick (w : Regs c) : Regs c := { w with elapsed := nextElapsed w }

/-- TICK_PHASE (R56). -/
def tickPhase (w : Regs c) : Regs c :=
  if tickCounts w then
    if tickTimesOut w then timeout (countTick w) else countTick w
  else w

/-- APPEND(b) (spec/43_symbol_buffer.md R73, R74). -/
def append (b : Bool) (w : Regs c) : Regs c :=
  { w with
    buf := if atLeast w.cnt c.bufW then w.buf else assignBit w.buf w.cnt.toNat b
    cnt := w.cnt + 1 }

/-- The class action of ACT (spec/42_symbol_classifier.md R69). -/
def actClass (cls : SymbolClass) (w : Regs c) : Regs c :=
  match cls with
  | .noise => showPattern c.patError w
  | .dot   => append false w
  | .dash  => append true w
  | .over  => w

/-- The long-press action of ACT (R69). -/
def actLong (lng : Bool) (w : Regs c) : Regs c := if lng then showPattern c.patError w else w

/-- ACT(cls, lng) (R69): the class action, then the long-press action. -/
def act (cls : SymbolClass) (lng : Bool) (w : Regs c) : Regs c := actLong lng (actClass cls w)

/-- An accepted press (R58). -/
def acceptPress (w : Regs c) : Regs c := { w with elapsed := 0, timing := true, pressed := true, timerClr := true }

/-- PRESS_PHASE (R58). -/
def pressPhase (w : Regs c) : Regs c := if pressAccepted w then acceptPress w else w

/-- What an accepted release does to the control bits (R59). -/
def endPress (w : Regs c) : Regs c := { w with pressed := false, timing := timingAfterRelease c w.timing }

/-- An accepted release (R59). -/
def acceptRelease (w : Regs c) : Regs c :=
  endPress (act (classify c w.elapsed).1 (classify c w.elapsed).2 w)

/-- RELEASE_PHASE (R59). -/
def releasePhase (w : Regs c) : Regs c := if releaseAccepted w then acceptRelease w else w

/-- Phase 3 (spec/40_edge_detect.md R49). -/
def sampleKey (k : Bool) (w : Regs c) : Regs c := { w with keyQ := k }

/-- RESET(k) (spec/70_reset_and_hazards.md R90): written register by register, from any registers. -/
def resetRegs (k : Bool) (w : Regs c) : Regs c :=
  { w with
    keyQ := k, timing := false, pressed := false, elapsed := 0, buf := 0, cnt := 0,
    disp := c.patBlank, dispWe := false, timerClr := false }

end Sys2Proof.Machine
end

