-- ==== Sys2Proof/Machine/Edge.lean ====
section
/-! DEFINITION. The meaning of the edge detector's own operation, NOP (spec/40_edge_detect.md). -/

namespace Sys2Proof.Machine

/-- NOP (R53): the pulses drop and the key is sampled. -/
def execNop (s : State) : Host.Outcome State Fault Refusal :=
  .next { s with regs := sampleKey s.sample.key (pulseClear s.regs) }

end Sys2Proof.Machine
end

