-- ==== Sys2Proof/Machine/System.lean ====
section
/-! DEFINITION. The meaning of the block's only system operation, RST (spec/70_reset_and_hazards.md R90). -/

namespace Sys2Proof.Machine

/-- RST (R90): the operand is `in.key` of the reset step; the tick and the edge of the step are discarded
(spec/30_encoding.md R44). -/
def execRst (s : State) : Host.Outcome State Fault Refusal :=
  .next { s with regs := resetRegs s.sample.key s.regs }

end Sys2Proof.Machine
end

