-- ==== Sys2Proof/Machine/Timer.lean ====
section
/-! DEFINITION. The meanings of the five operations of the timer state machine (spec/41_timer_state_machine.md R60 to
R64). The phases run in the order of R54, each on the registers the phase before it left. -/

namespace Sys2Proof.Machine

/-- TICK (R60): `PULSE_CLEAR; TICK_PHASE; w.key_q <- in.key`. -/
def execTick (s : State) : Host.Outcome State Fault Refusal :=
  .next { s with regs := sampleKey s.sample.key (tickPhase (pulseClear s.regs)) }

/-- PRESS (R61): `PULSE_CLEAR; PRESS_PHASE; w.key_q <- 1`. -/
def execPress (s : State) : Host.Outcome State Fault Refusal :=
  .next { s with regs := sampleKey true (pressPhase (pulseClear s.regs)) }

/-- RELEASE (R62): `PULSE_CLEAR; RELEASE_PHASE; w.key_q <- 0`. -/
def execRelease (s : State) : Host.Outcome State Fault Refusal :=
  .next { s with regs := sampleKey false (releasePhase (pulseClear s.regs)) }

/-- TICK_PRESS (R63): `PULSE_CLEAR; TICK_PHASE; PRESS_PHASE; w.key_q <- 1`. -/
def execTickPress (s : State) : Host.Outcome State Fault Refusal :=
  .next { s with regs := sampleKey true (pressPhase (tickPhase (pulseClear s.regs))) }

/-- TICK_RELEASE (R64): `PULSE_CLEAR; TICK_PHASE; RELEASE_PHASE; w.key_q <- 0`. -/
def execTickRelease (s : State) : Host.Outcome State Fault Refusal :=
  .next { s with regs := sampleKey false (releasePhase (tickPhase (pulseClear s.regs))) }

end Sys2Proof.Machine
end

