-- ==== Sys2Proof/Machine/Dispatch.lean ====
section
/-! DEFINITION. One arm per operation of spec/opcode_table.json. -/

namespace Sys2Proof.Machine

def exec (i : Instr) (s : State) : Host.Outcome State Fault Refusal :=
  match i with
  | .rst => Sys2Proof.Machine.execRst s
  | .nop => Sys2Proof.Machine.execNop s
  | .tick => Sys2Proof.Machine.execTick s
  | .press => Sys2Proof.Machine.execPress s
  | .release => Sys2Proof.Machine.execRelease s
  | .tickPress => Sys2Proof.Machine.execTickPress s
  | .tickRelease => Sys2Proof.Machine.execTickRelease s

end Sys2Proof.Machine
end

