-- ==== Sys2Proof/Decode.lean ====
section
/-! DEFINITION. From sampled levels to an operation and back (spec/30_encoding.md): the bits of an input word, the edges
and the event vector, the opcode table and the decoder it gives, then the encoder. -/

namespace Sys2Proof

/-- The bits of IN3 (spec/30_encoding.md R40). -/
def In3.word (w : In3) : InputWord := BitVec.ofBool w.rst ++ BitVec.ofBool w.tick ++ BitVec.ofBool w.key

/-- The levels an IN3 value stands for; all 8 values are legal (R40). -/
def In3.ofWord (v : InputWord) : In3 := ⟨v.getLsbD 2, v.getLsbD 1, v.getLsbD 0⟩

/-- The press edge: `in.key AND NOT key_q` (spec/40_edge_detect.md R50). -/
def riseOf (key keyQ : Bool) : Bool := key && !keyQ

/-- The release edge: `NOT in.key AND key_q` (spec/40_edge_detect.md R50). -/
def fallOf (key keyQ : Bool) : Bool := !key && keyQ

/-- The four bits of an event vector put together (spec/30_encoding.md R41). -/
def EventVector.ofBits (rst tick rise fall : Bool) : EventVector :=
  BitVec.ofBool rst ++ BitVec.ofBool tick ++ BitVec.ofBool rise ++ BitVec.ofBool fall

/-- EV4, computed from the input word and the sampled key level of the step before (spec/30_encoding.md R41). -/
def eventOf (w : In3) (keyQ : Bool) : EventVector :=
  EventVector.ofBits w.rst w.tick (riseOf w.key keyQ) (fallOf w.key keyQ)

/-- One row of the opcode table: an event vector `v` is of this row when `v` agrees with `pattern` on the bits of
`mask` (spec/30_encoding.md R42). -/
structure TableRow where
  pattern : EventVector
  mask    : EventVector
  instr   : Instr
  deriving DecidableEq, Repr

/-- Whether an event vector is of this row. -/
def TableRow.accepts (row : TableRow) (v : EventVector) : Bool := v &&& row.mask == row.pattern

/-- The opcode table (spec/30_encoding.md R42, spec/opcode_table.json). -/
def opcodeTable : List TableRow :=
  [ ⟨0b1000#4, 0b1000#4, .rst⟩,
    ⟨0b0000#4, 0b1111#4, .nop⟩,
    ⟨0b0100#4, 0b1111#4, .tick⟩,
    ⟨0b0010#4, 0b1111#4, .press⟩,
    ⟨0b0001#4, 0b1111#4, .release⟩,
    ⟨0b0110#4, 0b1111#4, .tickPress⟩,
    ⟨0b0101#4, 0b1111#4, .tickRelease⟩ ]

/-- Why a decoder refuses. -/
inductive DecodeError where
  /-- EV4 `0011` or `0111`: a press edge and a release edge together, illegal by construction (spec/30_encoding.md R43).
  Safe: no input word gives one. -/
  | riseAndFall
  /-- A number with a bit above bit 3 is no event vector. Safe. -/
  | notFourBits
  deriving DecidableEq, Repr

/-- The operation an event vector selects (spec/30_encoding.md R42), total, refusing what has no row (R43). A vector with
`rst = 1` is RST whatever its other bits are (R44). -/
def decode (v : EventVector) : Except DecodeError Instr :=
  match opcodeTable.find? (fun row => row.accepts v) with
  | some row => .ok row.instr
  | none => .error .riseAndFall

/-- The decoder on a number: an event vector is 4 bits wide and nothing else (spec/30_encoding.md R41). -/
def decodeNumber (n : Nat) : Except DecodeError Instr :=
  if n < 16 then decode (BitVec.ofNat 4 n) else .error .notFourBits

/-- The decoder on an instruction word of spec/opcode_table.json, which is an event vector in the low bits of `nbits`
(log entry 10). -/
def decodeTableWord (nbits w : Nat) : Option Instr :=
  match decodeNumber (w % 2 ^ nbits) with
  | .ok i => some i
  | .error _ => none

/-- The operation of a step with input word `w` when the step before sampled `keyQ` (spec/30_encoding.md R41, R42). -/
def operationOf (w : In3) (keyQ : Bool) : Except DecodeError Instr := decode (eventOf w keyQ)

/-- The operations of a sequence of input words; every step leaves its own key level in `key_q`
(spec/30_encoding.md R47, spec/40_edge_detect.md R49). -/
def operationsOf (keyQ : Bool) : List In3 → List (Except DecodeError Instr)
  | [] => []
  | w :: ws => operationOf w keyQ :: operationsOf w.key ws

/-- The event vector of an operation (spec/30_encoding.md R42). The don't-care bits of RST are 0. -/
def encode : Instr → EventVector
  | .rst         => EventVector.ofBits true false false false
  | .nop         => EventVector.ofBits false false false false
  | .tick        => EventVector.ofBits false true false false
  | .press       => EventVector.ofBits false false true false
  | .release     => EventVector.ofBits false false false true
  | .tickPress   => EventVector.ofBits false true true false
  | .tickRelease => EventVector.ofBits false true false true

/-- The row of the opcode table in terms of the raw inputs, its last two columns (spec/30_encoding.md R42): whether the
input word and `key_q` are those of the operation. -/
def Instr.selectedBy (i : Instr) (w : In3) (keyQ : Bool) : Bool :=
  match i with
  | .rst         => w.rst
  | .nop         => !w.rst && !w.tick && w.key == keyQ
  | .tick        => !w.rst && w.tick && w.key == keyQ
  | .press       => !w.rst && !w.tick && w.key && !keyQ
  | .release     => !w.rst && !w.tick && !w.key && keyQ
  | .tickPress   => !w.rst && w.tick && w.key && !keyQ
  | .tickRelease => !w.rst && w.tick && !w.key && keyQ

/-- The sampled key level that an event vector needs before the step: 0 for a press edge, 1 for a release edge, any for
neither (spec/40_edge_detect.md R50). -/
def keyQFor (v : EventVector) (keyQ : Bool) : Bool :=
  if v.getLsbD 1 then false else if v.getLsbD 0 then true else keyQ

/-- The input word that gives an event vector, when the sampled key level is the one it needs (spec/30_encoding.md R41). -/
def inputFor (v : EventVector) (keyQ : Bool) : In3 where
  rst  := v.getLsbD 3
  tick := v.getLsbD 2
  key  := if v.getLsbD 1 then true else if v.getLsbD 0 then false else keyQ

/-- The input words of a sequence of operations, from the sampled key level before the first of them
(spec/30_encoding.md R47). -/
def wordsFor (keyQ : Bool) : List Instr → List In3
  | [] => []
  | i :: is => inputFor (encode i) keyQ :: wordsFor (inputFor (encode i) keyQ).key is

end Sys2Proof
end

