-- ==== Sys2Proof/Machine/Fetch.lean ====
section
/-! DEFINITION. What happens before a step's operation runs: the input word of the step is sampled and decoded, and what a
model refuses is refused. Placing a word where the next step samples it stands here too. -/

namespace Sys2Proof.Machine

/-- The state in which the step with input word `w` runs: `w` is what was sampled, `rest` is still to come
(spec/70_reset_and_hazards.md R100). The registers are untouched. -/
def State.takeWord (s : State) (w : In3) (rest : List In3) : State := { s with sample := w, inputs := rest }

/-- The operation of the next step and the state it runs in, or why the model takes no step: a configuration that breaks
spec/00_scope.md R7, no input word left (R100), an event vector the decoder refuses (spec/30_encoding.md R43). -/
def fetch (s : State) : Except Refusal (Instr × State) :=
  if s.config.wf then
    match s.inputs with
    | [] => .error .endOfRun
    | w :: rest =>
      match operationOf w s.regs.keyQ with
      | .ok i => .ok (i, s.takeWord w rest)
      | .error _ => .error .impossibleEvent
  else .error .configNotWellFormed

/-- `s` with its next input word, and the sampled key level where an edge needs one, such that the next step's event
vector is `v` (log entry 10). The words after the next one stay. -/
def State.placeEvent (s : State) (v : EventVector) : State :=
  { s with
    regs := { s.regs with keyQ := keyQFor v s.regs.keyQ }
    inputs := inputFor v s.regs.keyQ :: s.inputs.drop 1 }

end Sys2Proof.Machine
end

