-- ==== Sys2Proof/Machine/Step.lean ====
section
/-! DEFINITION. One step of the block: one clock edge (spec/00_scope.md R3). -/

namespace Sys2Proof.Machine

/-- One step: the next input word selects the operation, and the operation runs to completion
(spec/41_timer_state_machine.md R54, spec/30_encoding.md R42). -/
def step (s : State) : Host.Outcome State Fault Refusal :=
  match fetch s with
  | .ok (i, t) => exec i t
  | .error r => .refused r

/-- `s` with the table word `w` of `nbits` bits placed where the next step takes its operation from (log entry 10). -/
def State.withFetchWord (s : State) (nbits w : Nat) : State := s.placeEvent (BitVec.ofNat 4 (w % 2 ^ nbits))

end Sys2Proof.Machine
end

