-- ==== Sys2Proof/Machine/Trace.lean ====
section
/-! DEFINITION. The input words of a program in trace syntax (spec/30_encoding.md R47, R48), and the program placed as the
words of the coming run. -/

namespace Sys2Proof

/-- `RST k`, `RSTT k`, `IDLE k` and `TICK k` as IN3 words (R47). -/
def In3.rstWord (k : Bool) : In3 := ⟨true, false, k⟩
def In3.rsttWord (k : Bool) : In3 := ⟨true, true, k⟩
def In3.idleWord (k : Bool) : In3 := ⟨false, false, k⟩
def In3.tickWord (k : Bool) : In3 := ⟨false, true, k⟩

/-- `n` copies of a list of words (R47 `*N`, R48 `REP`). -/
def repeatWords (n : Nat) (ws : List In3) : List In3 := (List.replicate n ws).flatten

/-- The words of a trace operation; the pseudo-instructions as R48 expands them. -/
def TraceOp.words : TraceOp → List In3
  | .rst k    => [In3.rstWord k]
  | .rstt k   => [In3.rsttWord k]
  | .idle k   => [In3.idleWord k]
  | .tick k   => [In3.tickWord k]
  | .down     => [In3.idleWord true]
  | .up       => [In3.idleWord false]
  | .hold n   => In3.idleWord true :: (List.replicate n (In3.tickWord true) ++ [In3.idleWord false])
  | .gap n    => List.replicate n (In3.tickWord false)
  | .wait n k => List.replicate n (In3.idleWord k)

/-- The words of a program, line by line (R47, R48). That `REP 0` gives no words is a DESIGN CHOICE (log entry 12). -/
def Trace.words : Trace → List In3
  | .nil => []
  | .line op times rest => repeatWords times op.words ++ rest.words
  | .rep n times body rest => repeatWords times (repeatWords n body.words) ++ rest.words

/-- The machine with a program's words as the coming run (spec/70_reset_and_hazards.md R100). -/
def Machine.State.withProgram (s : Machine.State) (p : Trace) : Machine.State := { s with inputs := p.words }

end Sys2Proof
end

