-- ==== Sys2Proof/Machine/StepRule.lean ====
section
/-! DEFINITION. The step function exactly as spec/41_timer_state_machine.md R54 writes it, on the registers, and a run of it
(spec/70_reset_and_hazards.md R100). The machine's own `step` goes through the opcode table instead; that the two agree is
a statement of Certificates/Slice0/Obligations.lean. -/

namespace Sys2Proof.Machine

variable {c : Config}

/-- `step(s, in)` of R54. -/
def stepRule (w : In3) (s : Regs c) : Regs c :=
  if w.rst then resetRegs w.key s
  else
    let ticked := if w.tick then tickPhase (pulseClear s) else pulseClear s
    let edged :=
      if riseOf w.key s.keyQ then pressPhase ticked
      else if fallOf w.key s.keyQ then releasePhase ticked
      else ticked
    sampleKey w.key edged

/-- The registers a run of input words leaves (R100). -/
def runWords (r : Regs c) : List In3 → Regs c
  | [] => r
  | w :: ws => runWords (stepRule w r) ws

end Sys2Proof.Machine
end

