-- ==== Sys2Proof/Machine/Events.lean ====
section
/-! DEFINITION. What happens inside a step, for an observer: the internal operations it performs (spec/30_encoding.md R45),
the error classes it raises (spec/60_exceptions.md R78) and the event sources that are present and enabled in it (R79). None
of this is recorded in a register. -/

namespace Sys2Proof.Machine

variable {c : Config}

/-- The internal operations of spec/30_encoding.md R45. -/
inductive InternalOp where
  | timeout
  | showBlank
  | acceptedPress
  | acceptedRelease
  | classify
  | append (b : Bool)
  | showError
  deriving DecidableEq, Repr

/-- The error classes of spec/60_exceptions.md R78. -/
inductive ErrorClass where
  /-- ERR_NOISE, the too-short press. -/
  | errNoise
  /-- ERR_LONG, the over-long press. -/
  | errLong
  /-- EVT_TIMEOUT, the entry timeout. -/
  | evtTimeout
  deriving DecidableEq, Repr

/-- The code of an error class (R78). -/
def ErrorClass.code : ErrorClass → Nat
  | .errNoise   => 1
  | .errLong    => 2
  | .evtTimeout => 3

/-- The four event sources of spec/60_exceptions.md R79. -/
inductive EventSource where
  | tick
  | pressEdge
  | releaseEdge
  | reset
  deriving DecidableEq, Repr

/-- Whether a source presents an event at this step (R79). -/
def EventSource.present (e : EventSource) (w : In3) (keyQ : Bool) : Bool :=
  match e with
  | .tick        => w.tick
  | .pressEdge   => riseOf w.key keyQ
  | .releaseEdge => fallOf w.key keyQ
  | .reset       => w.rst

/-- Whether a source is enabled in these registers (R79, the column "enabled when"). -/
def EventSource.enabled (e : EventSource) (r : Regs c) : Bool :=
  match e with
  | .tick        => tickCounts r
  | .pressEdge   => pressAccepted r
  | .releaseEdge => releaseAccepted r
  | .reset       => true

/-- The internal operations of a tick phase, in order (R56, R57). -/
def tickOps (w : Regs c) : List InternalOp := if tickTimesOut w then [.timeout, .showBlank] else []

/-- The internal operations of a press phase (R58). -/
def pressOps (w : Regs c) : List InternalOp := if pressAccepted w then [.acceptedPress] else []

/-- The internal operations of a class action (spec/42_symbol_classifier.md R69). -/
def classOps (cls : SymbolClass) : List InternalOp :=
  match cls with
  | .noise => [.showError]
  | .dot   => [.append false]
  | .dash  => [.append true]
  | .over  => []

/-- The internal operations of a release phase, in order (R59, R69). -/
def releaseOps (w : Regs c) : List InternalOp :=
  if releaseAccepted w then
    [.acceptedRelease, .classify] ++ classOps (classOf c w.elapsed) ++ (if longOf c w.elapsed then [.showError] else [])
  else []

/-- The registers the edge phase of a step sees: those after PULSE_CLEAR and the tick phase (R54). -/
def beforeEdge (w : In3) (s : Regs c) : Regs c := if w.tick then tickPhase (pulseClear s) else pulseClear s

/-- The internal operations of a step, in order (R45, R54); a reset step performs none. -/
def internalOps (w : In3) (s : Regs c) : List InternalOp :=
  if w.rst then []
  else
    (if w.tick then tickOps s else []) ++
      (if riseOf w.key s.keyQ then pressOps (beforeEdge w s)
       else if fallOf w.key s.keyQ then releaseOps (beforeEdge w s)
       else [])

/-- The internal operations of a run, in order. -/
def runOps (s : Regs c) : List In3 → List InternalOp
  | [] => []
  | w :: ws => internalOps w s ++ runOps (stepRule w s) ws

/-- The operands of the APPENDs in a list of internal operations, in order. -/
def appendsOf : List InternalOp → List Bool
  | [] => []
  | .append b :: ops => b :: appendsOf ops
  | _ :: ops => appendsOf ops

/-- The control state after an internal operation: the table of spec/41_timer_state_machine.md R67, row by row. Every other
combination leaves it unchanged. -/
def ControlState.after (c : Config) (q : ControlState) (op : InternalOp) : ControlState :=
  match op, q with
  | .acceptedPress,   .idle           => .timing
  | .acceptedRelease, .timing         => if c.releaseStopsTiming then .idle else .releasedTiming
  | .timeout,         .timing         => if c.timeoutClearsLatch then .idle else .timedOutHeld
  | .timeout,         .releasedTiming => .idle
  | .acceptedRelease, .timedOutHeld   => .idle
  | _, _ => q

/-- The error classes a step raises, in order (R78). -/
def raisedClasses (w : In3) (s : Regs c) : List ErrorClass :=
  if w.rst then []
  else
    (if w.tick && tickTimesOut s then [.evtTimeout] else []) ++
      (if fallOf w.key s.keyQ && releaseAccepted (beforeEdge w s) then
        (if classOf c (beforeEdge w s).elapsed == .noise then [.errNoise] else []) ++
          (if longOf c (beforeEdge w s).elapsed then [.errLong] else [])
       else [])

end Sys2Proof.Machine
end

