-- ==== Sys2Proof/Machine/Outputs.lean ====
section
/-! DEFINITION. The output ports (spec/10_state.md R15). Each is a copy of a register, so there is no path from the inputs
of a step to the outputs before the step ends (spec/70_reset_and_hazards.md R95), and reading one changes nothing
(spec/20_memory.md R35). -/

namespace Sys2Proof.Machine

/-- The output ports of spec/10_state.md R15, at the widths of the configuration. -/
structure Outputs (c : Config) where
  timerRun : Bool
  timerClr : Bool
  disp     : Pattern
  dispWe   : Bool
  symBuf   : BitVec c.bufW
  symCnt   : BitVec c.cntW
  deriving DecidableEq, Repr

/-- The levels at the output ports (spec/10_state.md R15, spec/41_timer_state_machine.md R65, spec/43_symbol_buffer.md
R76). -/
def Regs.outputs {c : Config} (r : Regs c) : Outputs c where
  timerRun := r.timing
  timerClr := r.timerClr
  disp     := r.disp
  dispWe   := r.dispWe
  symBuf   := r.buf
  symCnt   := r.cnt

end Sys2Proof.Machine
end

