-- ==== Sys2Proof/Safety.lean ====
section
/-! DEFINITION. What counts as a good state and a safe step, in the terms the statements use: the invariants of
spec/10_state.md R30, R26 and spec/43_symbol_buffer.md R74, each on the registers of one configuration, and an outcome that is no
stop of the machine. -/

namespace Sys2Proof.Machine

variable {c : Config}

/-- R30 item 1: `elapsed <= T_MAX - 1`. -/
def Regs.ElapsedBelowMax (r : Regs c) : Prop := r.elapsed.toNat < c.tMax

/-- R26: RELEASED_TIMING only when `RELEASE_STOPS_TIMING = 0`, TIMED_OUT_HELD only when `TIMEOUT_CLEARS_LATCH = 0`. -/
def Regs.ControlAllowed (r : Regs c) : Prop :=
  (r.control = .releasedTiming → c.releaseStopsTiming = false) ∧
    (r.control = .timedOutHeld → c.timeoutClearsLatch = false)

/-- In TIMED_OUT_HELD the counter is 0: the case of R30 item 2 in which the press is still latched. -/
def Regs.TimedOutClear (r : Regs c) : Prop := r.control = .timedOutHeld → r.elapsed = 0

/-- R30 item 4: `disp` is one of the two patterns. -/
def Regs.DispKnown (r : Regs c) : Prop := r.disp = c.patBlank ∨ r.disp = c.patError

/-- R30 item 5: with `RELEASE_STOPS_TIMING = 1` the two pulses never meet. -/
def Regs.PulsesApart (r : Regs c) : Prop := c.releaseStopsTiming = true → ¬ (r.dispWe = true ∧ r.timerClr = true)

/-- R30 item 7: `pressed = 1` implies `key_q = 1`. -/
def Regs.LatchedKeyDown (r : Regs c) : Prop := r.pressed = true → r.keyQ = true

/-- The invariant of spec/10_state.md R30 (items 1, 3, 4, 5 and 7; item 3 is the conjunction of the two halves of
`ControlAllowed` under both mode bits) together with R26. -/
structure Regs.Inv (r : Regs c) : Prop where
  elapsedBelowMax : r.ElapsedBelowMax
  controlAllowed  : r.ControlAllowed
  timedOutClear   : r.TimedOutClear
  dispKnown       : r.DispKnown
  pulsesApart     : r.PulsesApart
  latchedKeyDown  : r.LatchedKeyDown

/-- spec/43_symbol_buffer.md R74 item 4: bits `2^CNT_W` and above of the buffer are 0. -/
def Regs.HighBitsClear (r : Regs c) : Prop := ∀ i, 2 ^ c.cntW ≤ i → r.buf.getLsbD i = false

/-- A state the statements about runs start from: a configuration the model takes, and registers that meet R30. -/
structure State.Inv (s : State) : Prop where
  configWf : s.config.wf = true
  regsInv  : s.regs.Inv

/-- What a tick phase does to the working copy (spec/41_timer_state_machine.md R56, R57), every register written out: nothing
while not timing; one more tick counted below `T_MAX`; TIMEOUT from `T_MAX` on. -/
structure TickEffect (w r : Regs c) : Prop where
  ignored  : w.timing = false → r = w
  counted  : w.timing = true → (w.elapsed.toNat + 1) % 2 ^ c.ctrW < c.tMax → r = { w with elapsed := w.elapsed + 1 }
  timedOut : w.timing = true → c.tMax ≤ (w.elapsed.toNat + 1) % 2 ^ c.ctrW →
    r = { w with
          timing := false, elapsed := 0, pressed := !c.timeoutClearsLatch && w.pressed,
          disp := c.patBlank, dispWe := true }

/-- What a press phase does to the working copy (R58), every register written out. -/
structure PressEffect (w r : Regs c) : Prop where
  accepted : w.timing = false → w.pressed = false →
    r = { w with elapsed := 0, timing := true, pressed := true, timerClr := true }
  rejected : w.timing = true ∨ w.pressed = true → r = w

/-- The durations whose release appends a symbol: `[T_LOW, T_MID]` and `(T_MID, T_HIGH]` (spec/42_symbol_classifier.md R68,
R69). -/
abbrev Appends (c : Config) (v : Nat) : Prop := c.tLow ≤ v ∧ (v ≤ c.tMid ∨ v ≤ c.tHigh)

/-- The durations whose release shows the error pattern: below `T_LOW`, or above `T_LONG` (R68, R69). -/
abbrev ShowsError (c : Config) (v : Nat) : Prop := v < c.tLow ∨ c.tLong < v

/-- What a release phase does to the working copy (R59, R68, R69, spec/43_symbol_buffer.md R73), register by register, in
terms of the measured duration `w.elapsed`. -/
structure ReleaseEffect (w r : Regs c) : Prop where
  rejected  : w.pressed = false → r = w
  control   : w.pressed = true → r.pressed = false ∧ r.timing = (!c.releaseStopsTiming && w.timing)
  kept      : w.pressed = true → r.elapsed = w.elapsed ∧ r.keyQ = w.keyQ ∧ r.timerClr = w.timerClr
  counted   : w.pressed = true → Appends c w.elapsed.toNat → r.cnt = w.cnt + 1
  stored    : w.pressed = true → Appends c w.elapsed.toNat → ∀ i, i < c.bufW →
    r.buf.getLsbD i = if i = w.cnt.toNat then decide (c.tMid < w.elapsed.toNat) else w.buf.getLsbD i
  unstored  : w.pressed = true → ¬ Appends c w.elapsed.toNat → r.cnt = w.cnt ∧ r.buf = w.buf
  shown     : w.pressed = true → ShowsError c w.elapsed.toNat → r.disp = c.patError ∧ r.dispWe = true
  unshown   : w.pressed = true → ¬ ShowsError c w.elapsed.toNat → r.disp = w.disp ∧ r.dispWe = w.dispWe

/-- A step that ends in a next state. The only other outcomes of this machine are the refusals of `fetch`. -/
def Completes (o : Host.Outcome State Fault Refusal) : Prop := ∃ t, o = .next t

end Sys2Proof.Machine
end

