-- ==== Sys2Proof/Certificates/Slice0/Obligations.lean ====
section
/-! DEFINITION. What the provers are asked to settle about the model. Each docstring names the rule of spec/ it formalises.
`r`, `s` and `t` are registers or states; where a statement speaks of runs it speaks of `runWords`, which
`RunFollowsStepFunction` ties to the machine's own steps. -/

open Sys2Proof
open Sys2Proof.Machine

/-! ### Configuration -/

/-- spec/00_scope.md R7: the six constraints; any other configuration is refused; every operation is total for any
parameter values. -/
def Obligations.ConfigurationsTakenAndRefused : Prop :=
  (∀ c : Config, c.wf = true ↔
    (0 < c.tLow ∧ c.tLow < c.tMid ∧ c.tMid < c.tHigh) ∧ (c.tMid ≤ c.tLong ∧ c.tLong < c.tHigh) ∧ c.tHigh < c.tMax ∧
      c.tMax ≤ 2 ^ c.ctrW - 1 ∧ (1 ≤ c.bufW ∧ 1 ≤ c.cntW ∧ 1 ≤ c.ctrW) ∧ c.patError ≠ c.patBlank) ∧
  (∀ s : State, s.config.wf = false → step s = .refused .configNotWellFormed) ∧
  (∀ (i : Instr) (s : State), Completes (exec i s))

/-- spec/00_scope.md R6: the default of every field that has one, and the two named variants; the record is well-formed for
exactly the values of the OPEN `T_LONG` that R7 item 2 admits. -/
def Obligations.ReferenceConfigurationDefaults : Prop :=
  (∀ tLong : Nat, Config.referenceWith tLong = ⟨1200, 8000, 16000, tLong, 40000, 16, 8, 8, 0x00, 0x79, true, true, 25⟩) ∧
  Config.mode41 = { Config.reference with releaseStopsTiming := false } ∧
  Config.latchKept = { Config.reference with timeoutClearsLatch := false } ∧
  (∀ tLong : Nat, (Config.referenceWith tLong).wf = true ↔ 8000 ≤ tLong ∧ tLong < 16000)

/-! ### Encoding -/

/-- spec/30_encoding.md R40: the bits of IN3, and that all 8 values are inputs. -/
def Obligations.InputWordBits : Prop :=
  (∀ w : In3, w.word.getLsbD 2 = w.rst ∧ w.word.getLsbD 1 = w.tick ∧ w.word.getLsbD 0 = w.key) ∧
  (∀ w : In3, In3.ofWord w.word = w) ∧ (∀ v : InputWord, (In3.ofWord v).word = v)

/-- spec/30_encoding.md R41 and spec/40_edge_detect.md R49, R50: the bits of EV4; the two edges never meet, a steady key gives
neither; every step leaves the key level in `key_q`, so an edge lasts one step: a key that stays at a level gives no further
edge. -/
def Obligations.EventVectorBits : Prop :=
  (∀ (w : In3) (keyQ : Bool),
    (eventOf w keyQ).getLsbD 3 = w.rst ∧ (eventOf w keyQ).getLsbD 2 = w.tick ∧
    (eventOf w keyQ).getLsbD 1 = (w.key && !keyQ) ∧ (eventOf w keyQ).getLsbD 0 = (!w.key && keyQ) ∧
    ¬ ((eventOf w keyQ).getLsbD 1 = true ∧ (eventOf w keyQ).getLsbD 0 = true) ∧
    (w.key = keyQ → (eventOf w keyQ).getLsbD 1 = false ∧ (eventOf w keyQ).getLsbD 0 = false)) ∧
  (∀ (c : Config) (r : Regs c) (v w : In3), (stepRule v r).keyQ = v.key ∧
    (w.key = v.key → (eventOf w (stepRule v r).keyQ).getLsbD 1 = false ∧ (eventOf w (stepRule v r).keyQ).getLsbD 0 = false))

/-- spec/30_encoding.md R42: every input word with either key level matches exactly one row, and the operation is the one
the table's last two columns give. -/
def Obligations.EveryInputSelectsOneOperation : Prop :=
  (∀ (w : In3) (keyQ : Bool), (opcodeTable.filter (fun row => row.accepts (eventOf w keyQ))).length = 1) ∧
  (∀ (i : Instr) (w : In3) (keyQ : Bool), operationOf w keyQ = .ok i ↔ i.selectedBy w keyQ = true)

/-- spec/30_encoding.md R43: the two illegal vectors are refused, no input word gives one, no input word is illegal, and
so no step is refused for one. That an input is 0 or 1 is the type of `In3`. -/
def Obligations.IllegalEventsNeverOccur : Prop :=
  decode 0b0011#4 = .error .riseAndFall ∧ decode 0b0111#4 = .error .riseAndFall ∧
  (∀ (w : In3) (keyQ : Bool), eventOf w keyQ ≠ 0b0011#4 ∧ eventOf w keyQ ≠ 0b0111#4) ∧
  (∀ (w : In3) (keyQ : Bool), ∃ i, operationOf w keyQ = .ok i) ∧
  (∀ s : State, step s ≠ .refused .impossibleEvent)

/-- spec/30_encoding.md R42, the `match` column: seven event vectors written out and the operations they stand for; R43: two
that are refused. That a table word of 8 bits holds the event vector in its low 4 bits, and that a number with a higher bit
decodes to nothing, is the model's own convention (DESIGN CHOICE, log entry 10). -/
def Obligations.TableWordsDecode : Prop :=
  decodeTableWord 8 0b1000 = some .rst ∧ decodeTableWord 8 0b0000 = some .nop ∧ decodeTableWord 8 0b0100 = some .tick ∧
  decodeTableWord 8 0b0010 = some .press ∧ decodeTableWord 8 0b0001 = some .release ∧
  decodeTableWord 8 0b0110 = some .tickPress ∧ decodeTableWord 8 0b0101 = some .tickRelease ∧
  decodeTableWord 8 0b0011 = none ∧ decodeTableWord 8 0b0111 = none ∧ decodeTableWord 8 0b10000 = none

/-- spec/30_encoding.md R42: decode and encode agree, in both directions where a word has one meaning (an RST vector has
three bits that do not matter). -/
def Obligations.DecodeAndEncodeAgree : Prop :=
  (∀ i : Instr, decode (encode i) = .ok i) ∧
  (∀ (v : EventVector) (i : Instr), v.getLsbD 3 = false → decode v = .ok i → encode i = v) ∧
  (∀ v : EventVector, v.getLsbD 3 = true → decode v = .ok .rst)

/-- spec/30_encoding.md R47, R42: the operations of a sequence of words without a reset determine the words, however long
the sequence, each step's event depending on the key level the step before it left. -/
def Obligations.OperationsDetermineWords : Prop :=
  ∀ (keyQ : Bool) (ws : List In3), (∀ w ∈ ws, w.rst = false) →
    ∃ ops : List Instr, operationsOf keyQ ws = ops.map Except.ok ∧ wordsFor keyQ ops = ws

/-- The model's own convention (log entry 10): the word of an operation, placed, is what the next step runs, and the rest
of the state is untouched but for the sampled key level an edge needs. -/
def Obligations.PlacedWordIsRun : Prop :=
  ∀ (s : State) (i : Instr), s.config.wf = true →
    ∃ (w : In3) (k : Bool),
      s.withFetchWord 8 (encode i).toNat =
        { s with regs := { s.regs with keyQ := k }, inputs := w :: s.inputs.drop 1 } ∧
      step (s.withFetchWord 8 (encode i).toNat) =
        exec i { s with regs := { s.regs with keyQ := k }, sample := w, inputs := s.inputs.drop 1 }

/-- spec/30_encoding.md R47 and R48: the words of every trace operation. That `REP 0` gives no words, and that any lines are a
body, is the model's choice (DESIGN CHOICE, log entry 12). -/
def Obligations.TraceOperationsExpand : Prop :=
  (∀ k : Bool, (TraceOp.rst k).words = [⟨true, false, k⟩] ∧ (TraceOp.rstt k).words = [⟨true, true, k⟩] ∧
    (TraceOp.idle k).words = [⟨false, false, k⟩] ∧ (TraceOp.tick k).words = [⟨false, true, k⟩]) ∧
  TraceOp.down.words = (TraceOp.idle true).words ∧ TraceOp.up.words = (TraceOp.idle false).words ∧
  (∀ n : Nat, (TraceOp.hold n).words =
    TraceOp.down.words ++ (Trace.line (.tick true) n .nil).words ++ TraceOp.up.words) ∧
  (∀ n : Nat, (TraceOp.gap n).words = (Trace.line (.tick false) n .nil).words) ∧
  (∀ (n : Nat) (k : Bool), (TraceOp.wait n k).words = (Trace.line (.idle k) n .nil).words) ∧
  (∀ (n : Nat) (body : Trace), (Trace.rep (n + 1) 1 body .nil).words = body.words ++ (Trace.rep n 1 body .nil).words) ∧
  (∀ body : Trace, (Trace.rep 0 1 body .nil).words = []) ∧
  (∀ (op : TraceOp) (n : Nat) (rest : Trace),
    (Trace.line op (n + 1) rest).words = op.words ++ (Trace.line op n rest).words ∧ (Trace.line op 0 rest).words = rest.words)

/-! ### The step -/

/-- A step runs the decoded instruction (spec/30_encoding.md R42, spec/41_timer_state_machine.md R54): `step` samples the
next input word, which leaves the run, and is `exec` of the operation it selects. -/
def Obligations.StepRunsDecodedInstruction : Prop :=
  ∀ (s : State) (w : In3) (rest : List In3) (i : Instr), s.config.wf = true → s.inputs = w :: rest →
    operationOf w s.regs.keyQ = .ok i → step s = exec i { s with sample := w, inputs := rest }

/-- The model's own choice (log entry 3) of what spec/70_reset_and_hazards.md R100 says nothing of: no step after the last
word of a run. -/
def Obligations.NoStepAfterLastWord : Prop :=
  ∀ s : State, s.config.wf = true → s.inputs = [] → step s = .refused .endOfRun

/-- spec/60_exceptions.md R77: every step of a run completes, and no step and no operation ends in a fault. -/
def Obligations.EveryStepCompletes : Prop :=
  (∀ (s : State) (w : In3) (rest : List In3), s.config.wf = true → s.inputs = w :: rest → Completes (step s)) ∧
  (∀ (i : Instr) (s : State), Completes (exec i s)) ∧
  (∀ (s : State) (f : Fault), step s ≠ .fault f)

/-- spec/10_state.md R28, R29: an operation writes registers only; the configuration, the sample and the words to come
stay. -/
def Obligations.OperationsWriteRegistersOnly : Prop :=
  ∀ (i : Instr) (s : State), ∃ r : Regs s.config, exec i s = .next { s with regs := r }

/-- spec/41_timer_state_machine.md R54: a step of the machine leaves the registers that the step function of R54 gives. -/
def Obligations.StepFollowsStepFunction : Prop :=
  ∀ (s : State) (w : In3) (rest : List In3), s.config.wf = true → s.inputs = w :: rest →
    step s = .next { s with regs := stepRule w s.regs, sample := w, inputs := rest }

/-- spec/70_reset_and_hazards.md R100: a run of the machine over all its words ends, and its result is the state the step
function gives applied word by word. -/
def Obligations.RunFollowsStepFunction : Prop :=
  ∀ s : State, s.config.wf = true →
    Host.Core.run core s.inputs.length s =
      .next { s with regs := runWords s.regs s.inputs, sample := s.inputs.getLast?.getD s.sample, inputs := [] }

/-! ### The operations -/

/-- spec/70_reset_and_hazards.md R90, spec/30_encoding.md R44: RST sets every register, from any state; an input word
with `rst = 1` is RST whatever its tick and edge, and a step with such a word runs it. -/
def Obligations.RstResult : Prop :=
  (∀ s : State, exec .rst s =
    .next { s with
      regs :=
        { keyQ := s.sample.key, timing := false, pressed := false, elapsed := 0, buf := 0, cnt := 0,
          disp := s.config.patBlank, dispWe := false, timerClr := false } }) ∧
  (∀ (w : In3) (keyQ : Bool), operationOf w keyQ = .ok .rst ↔ w.rst = true) ∧
  (∀ (s : State) (w : In3) (rest : List In3), s.config.wf = true → s.inputs = w :: rest → w.rst = true →
    step s = exec .rst { s with sample := w, inputs := rest })

/-- spec/40_edge_detect.md R53: NOP drops the pulses, samples the key and changes nothing else; it is selected by
`00k` with `key_q = k`. -/
def Obligations.NopResult : Prop :=
  (∀ s : State, exec .nop s =
    .next { s with regs := { s.regs with dispWe := false, timerClr := false, keyQ := s.sample.key } }) ∧
  (∀ (w : In3) (keyQ : Bool), operationOf w keyQ = .ok .nop ↔ w.rst = false ∧ w.tick = false ∧ w.key = keyQ)

/-- spec/41_timer_state_machine.md R60, R56, R57: TICK, and the inputs that select it. -/
def Obligations.TickResult : Prop :=
  (∀ s : State, ∃ r : Regs s.config,
    TickEffect { s.regs with dispWe := false, timerClr := false } r ∧
    exec .tick s = .next { s with regs := { r with keyQ := s.sample.key } }) ∧
  (∀ (w : In3) (keyQ : Bool), operationOf w keyQ = .ok .tick ↔ w.rst = false ∧ w.tick = true ∧ w.key = keyQ)

/-- spec/41_timer_state_machine.md R61, R58: PRESS, and the inputs that select it. Under the invariant every step keeps
(`StepKeepsInvariant`), a press edge never meets a latched press. -/
def Obligations.PressResult : Prop :=
  (∀ s : State, ∃ r : Regs s.config,
    PressEffect { s.regs with dispWe := false, timerClr := false } r ∧
    exec .press s = .next { s with regs := { r with keyQ := true } }) ∧
  (∀ (w : In3) (keyQ : Bool), operationOf w keyQ = .ok .press ↔ w.rst = false ∧ w.tick = false ∧ w.key = true ∧ keyQ = false) ∧
  (∀ (s : State) (w : In3), s.Inv → operationOf w s.regs.keyQ = .ok .press → s.regs.pressed = false)

/-- spec/41_timer_state_machine.md R62, R59: RELEASE, and the inputs that select it. -/
def Obligations.ReleaseResult : Prop :=
  (∀ s : State, ∃ r : Regs s.config,
    ReleaseEffect { s.regs with dispWe := false, timerClr := false } r ∧
    exec .release s = .next { s with regs := { r with keyQ := false } }) ∧
  (∀ (w : In3) (keyQ : Bool), operationOf w keyQ = .ok .release ↔ w.rst = false ∧ w.tick = false ∧ w.key = false ∧ keyQ = true)

/-- spec/41_timer_state_machine.md R63: TICK_PRESS is the tick phase, then the press phase on its result; and the
inputs that select it. -/
def Obligations.TickPressResult : Prop :=
  (∀ s : State, ∃ r₁ r₂ : Regs s.config,
    TickEffect { s.regs with dispWe := false, timerClr := false } r₁ ∧ PressEffect r₁ r₂ ∧
    exec .tickPress s = .next { s with regs := { r₂ with keyQ := true } }) ∧
  (∀ (w : In3) (keyQ : Bool), operationOf w keyQ = .ok .tickPress ↔ w.rst = false ∧ w.tick = true ∧ w.key = true ∧ keyQ = false)

/-- spec/41_timer_state_machine.md R64: TICK_RELEASE is the tick phase, then the release phase on its result; and
the inputs that select it. -/
def Obligations.TickReleaseResult : Prop :=
  (∀ s : State, ∃ r₁ r₂ : Regs s.config,
    TickEffect { s.regs with dispWe := false, timerClr := false } r₁ ∧ ReleaseEffect r₁ r₂ ∧
    exec .tickRelease s = .next { s with regs := { r₂ with keyQ := false } }) ∧
  (∀ (w : In3) (keyQ : Bool), operationOf w keyQ = .ok .tickRelease ↔ w.rst = false ∧ w.tick = true ∧ w.key = false ∧ keyQ = true)

/-- The frame of the operations that append nothing (spec/10_state.md R21, R22): NOP, TICK, PRESS and TICK_PRESS leave
the symbol buffer and its count, and NOP, PRESS leave the display pattern too. -/
def Obligations.NonReleaseOperationsKeepBuffer : Prop :=
  ∀ (i : Instr) (s : State), i = .nop ∨ i = .tick ∨ i = .press ∨ i = .tickPress →
    ∃ r : Regs s.config, exec i s = .next { s with regs := r } ∧ r.buf = s.regs.buf ∧ r.cnt = s.regs.cnt ∧
      (i = .nop ∨ i = .press → r.disp = s.regs.disp ∧ r.dispWe = false)

/-- spec/70_reset_and_hazards.md R96: the tick of an accepted press is not counted, so TICK_PRESS is then PRESS. -/
def Obligations.PressStepTickNotCounted : Prop :=
  ∀ s : State, s.regs.timing = false → s.regs.pressed = false →
    exec .tickPress s = exec .press s ∧
    ∃ r : Regs s.config, exec .tickPress s = .next { s with regs := r } ∧ r.elapsed = 0 ∧ r.timing = true ∧ r.timerClr = true

/-- spec/41_timer_state_machine.md R64 and spec/60_exceptions.md R81: in a step with a release and a tick that times out, the
TIMEOUT comes first. With `TIMEOUT_CLEARS_LATCH = 1` the release is rejected and the display blank; with 0 the release is
noise and the display shows the error. The buffer stays either way. -/
def Obligations.TimeoutComesBeforeRelease : Prop :=
  ∀ s : State, 0 < s.config.tLow → s.regs.timing = true → s.regs.pressed = true → s.config.tMax ≤ (s.regs.elapsed.toNat + 1) % 2 ^ s.config.ctrW →
    exec .tickRelease s =
      .next { s with
        regs :=
          { s.regs with
            keyQ := false, timing := false, pressed := false, elapsed := 0, timerClr := false, dispWe := true,
            disp := if s.config.timeoutClearsLatch then s.config.patBlank else s.config.patError } }

/-- spec/41_timer_state_machine.md R63 and spec/60_exceptions.md R81: in RELEASED_TIMING, a tick that times out lets the press
of the same step be accepted. -/
def Obligations.TimeoutComesBeforePress : Prop :=
  ∀ s : State, s.regs.timing = true → s.regs.pressed = false →
    s.config.tMax ≤ (s.regs.elapsed.toNat + 1) % 2 ^ s.config.ctrW →
    exec .tickPress s =
      .next { s with
        regs :=
          { s.regs with
            keyQ := true, timing := true, pressed := true, elapsed := 0, timerClr := true, dispWe := true,
            disp := s.config.patBlank } }

/-! ### Classifier and buffer -/

/-- spec/42_symbol_classifier.md R68: the classes as intervals of the duration, the independent long-press bit, what a
well-formed configuration excludes, and the boundary table of the reference configuration with `T_LONG = 14000`. -/
def Obligations.ClassifyThresholds : Prop :=
  (∀ (c : Config) (v : BitVec c.ctrW),
    ((classify c v).1 = .noise ↔ v.toNat < c.tLow) ∧
    ((classify c v).1 = .dot ↔ c.tLow ≤ v.toNat ∧ v.toNat ≤ c.tMid) ∧
    ((classify c v).1 = .dash ↔ c.tLow ≤ v.toNat ∧ c.tMid < v.toNat ∧ v.toNat ≤ c.tHigh) ∧
    ((classify c v).1 = .over ↔ c.tLow ≤ v.toNat ∧ c.tMid < v.toNat ∧ c.tHigh < v.toNat) ∧
    ((classify c v).2 = true ↔ c.tLong < v.toNat)) ∧
  (∀ (c : Config) (v : BitVec c.ctrW), c.wf = true →
    ((classify c v).2 = true → (classify c v).1 ≠ .noise ∧ (classify c v).1 ≠ .dot) ∧
    ((classify c v).1 = .over → (classify c v).2 = true)) ∧
  ([0, 1199, 1200, 8000, 8001, 14000, 14001, 16000, 16001, 39999].map
      (fun v => classify (Config.referenceWith 14000) (BitVec.ofNat 16 v)) =
    [(.noise, false), (.noise, false), (.dot, false), (.dot, false), (.dash, false), (.dash, false), (.dash, true),
      (.dash, true), (.over, true), (.over, true)])

/-- spec/42_symbol_classifier.md R71 and spec/60_exceptions.md R78: the codes. -/
def Obligations.ClassAndErrorCodes : Prop :=
  SymbolClass.noise.code = 0b00#2 ∧ SymbolClass.dot.code = 0b01#2 ∧ SymbolClass.dash.code = 0b10#2 ∧
  SymbolClass.over.code = 0b11#2 ∧
  ErrorClass.errNoise.code = 1 ∧ ErrorClass.errLong.code = 2 ∧ ErrorClass.evtTimeout.code = 3

/-- spec/43_symbol_buffer.md R73: APPEND assigns the bit at `cnt` where the buffer has one, keeps every other bit, counts
modulo `2^CNT_W`, and writes no other register. -/
def Obligations.AppendResult : Prop :=
  ∀ (c : Config) (b : Bool) (w : Regs c),
    append b w = { w with buf := (append b w).buf, cnt := w.cnt + 1 } ∧
    (append b w).cnt.toNat = (w.cnt.toNat + 1) % 2 ^ c.cntW ∧
    (w.cnt.toNat < c.bufW → ∀ i, i < c.bufW →
      (append b w).buf.getLsbD i = if i = w.cnt.toNat then b else w.buf.getLsbD i) ∧
    (c.bufW ≤ w.cnt.toNat → (append b w).buf = w.buf)

/-- spec/43_symbol_buffer.md R74: append number `k` since a reset runs with `cnt = k mod 2^CNT_W`; it writes that bit where
the buffer has one and none otherwise, so symbols beyond `BUF_W` are lost, a wrapped count overwrites from bit 0, and the
bits from `2^CNT_W` on stay 0. No other register is written, so no signal is raised. -/
def Obligations.AppendOverflow : Prop :=
  ∀ (c : Config) (k : Bool) (bs : List Bool) (b : Bool),
    let r := bs.foldl (fun r b => append b r) (Regs.reset c k)
    r.cnt.toNat = bs.length % 2 ^ c.cntW ∧
    (append b r).cnt.toNat = (bs.length + 1) % 2 ^ c.cntW ∧
    (∀ i, i < c.bufW →
      (append b r).buf.getLsbD i = if i = bs.length % 2 ^ c.cntW then b else r.buf.getLsbD i) ∧
    (∀ i, 2 ^ c.cntW ≤ i → r.buf.getLsbD i = false) ∧
    append b r = { r with buf := (append b r).buf, cnt := (append b r).cnt }

/-- spec/43_symbol_buffer.md R75: a reset clears `buf` and `cnt`, and no other step does. Either it runs no APPEND
and leaves both, or it runs one in an accepted release, counts it, and leaves every bit but the one at `cnt`. -/
def Obligations.NoStepClearsBuffer : Prop :=
  ∀ (c : Config) (w : In3) (r : Regs c),
    (w.rst = true → (stepRule w r).buf = 0 ∧ (stepRule w r).cnt = 0) ∧
    (w.rst = false →
      (appendsOf (internalOps w r) = [] ∧ (stepRule w r).buf = r.buf ∧ (stepRule w r).cnt = r.cnt) ∨
      (∃ b, appendsOf (internalOps w r) = [b] ∧ .acceptedRelease ∈ internalOps w r ∧ (stepRule w r).cnt = r.cnt + 1 ∧
        ∀ i, i < c.bufW → (stepRule w r).buf.getLsbD i = if i = r.cnt.toNat then b else r.buf.getLsbD i))

/-- spec/10_state.md R30 item 6: the count is the number of APPENDs, modulo `2^CNT_W`, over any run without a reset. -/
def Obligations.CountIsNumberOfAppends : Prop :=
  ∀ (c : Config) (r : Regs c) (ws : List In3), (∀ w ∈ ws, w.rst = false) →
    (runWords r ws).cnt.toNat = (r.cnt.toNat + (appendsOf (runOps r ws)).length) % 2 ^ c.cntW

/-- spec/20_memory.md R32, spec/10_state.md R21: over a run from a reset whose APPENDs do not wrap the count, bit `i` of the
buffer is the operand of APPEND number `i`, and the bits no APPEND has reached are 0. -/
def Obligations.BufferHoldsAppendedSymbols : Prop :=
  ∀ (c : Config) (k : Bool) (ws : List In3), (∀ w ∈ ws, w.rst = false) →
    (appendsOf (runOps (Regs.reset c k) ws)).length ≤ 2 ^ c.cntW →
    ∀ i, i < c.bufW →
      (runWords (Regs.reset c k) ws).buf.getLsbD i = (appendsOf (runOps (Regs.reset c k) ws)).getD i false

/-! ### Control, pulses, outputs, events -/

/-- spec/41_timer_state_machine.md R67: the control state after a step is the table's, applied to the internal operations of
the step in order; a reset gives IDLE. -/
def Obligations.ControlFollowsTransitionTable : Prop :=
  ∀ (c : Config) (w : In3) (r : Regs c),
    (w.rst = true → (stepRule w r).control = .idle) ∧
    (w.rst = false → (stepRule w r).control = (internalOps w r).foldl (ControlState.after c) r.control)

/-- spec/10_state.md R24, R25: each pulse is 1 exactly after a step that performed its cause. -/
def Obligations.PulsesMarkTheirCauses : Prop :=
  ∀ (c : Config) (w : In3) (r : Regs c),
    ((stepRule w r).dispWe = true ↔ .showBlank ∈ internalOps w r ∨ .showError ∈ internalOps w r) ∧
    ((stepRule w r).timerClr = true ↔ .acceptedPress ∈ internalOps w r)

/-- spec/10_state.md R23: outside a reset, the pattern changes only in a step that marks the write; the pattern written is
the blank or the error pattern. (A reset step writes the blank without the mark: log entry 9.) -/
def Obligations.DisplayChangesOnlyWithStrobe : Prop :=
  ∀ (c : Config) (w : In3) (r : Regs c), w.rst = false →
    ((stepRule w r).dispWe = false → (stepRule w r).disp = r.disp) ∧
    ((stepRule w r).dispWe = true → (stepRule w r).disp = c.patBlank ∨ (stepRule w r).disp = c.patError)

/-- spec/10_state.md R15: every output is a copy of its register. -/
def Obligations.OutputsCopyRegisters : Prop :=
  ∀ (c : Config) (r : Regs c),
    r.outputs.timerRun = r.timing ∧ r.outputs.timerClr = r.timerClr ∧ r.outputs.disp = r.disp ∧
    r.outputs.dispWe = r.dispWe ∧ r.outputs.symBuf = r.buf ∧ r.outputs.symCnt = r.cnt

/-- spec/60_exceptions.md R79 and spec/40_edge_detect.md R51: an event whose source is not enabled when its phase runs has no
effect but, for an edge, the sampled key. -/
def Obligations.DisabledEventsHaveNoEffect : Prop :=
  ∀ (c : Config) (w : In3) (r : Regs c), w.rst = false →
    (EventSource.tick.enabled r = false → stepRule w r = stepRule { w with tick := false } r) ∧
    (EventSource.pressEdge.present w r.keyQ = true → EventSource.pressEdge.enabled (beforeEdge w r) = false →
      stepRule w r = { stepRule { w with key := r.keyQ } r with keyQ := w.key }) ∧
    (EventSource.releaseEdge.present w r.keyQ = true → EventSource.releaseEdge.enabled (beforeEdge w r) = false →
      stepRule w r = { stepRule { w with key := r.keyQ } r with keyQ := w.key })

/-- spec/60_exceptions.md R78: when each class is raised, and what is recorded of it. -/
def Obligations.ErrorClassesRecorded : Prop :=
  ∀ (c : Config) (w : In3) (r : Regs c), c.wf = true → w.rst = false →
    (.errNoise ∈ raisedClasses w r ↔
      .acceptedRelease ∈ internalOps w r ∧ (beforeEdge w r).elapsed.toNat < c.tLow) ∧
    (.errLong ∈ raisedClasses w r ↔
      .acceptedRelease ∈ internalOps w r ∧ c.tLong < (beforeEdge w r).elapsed.toNat) ∧
    (.evtTimeout ∈ raisedClasses w r ↔ .timeout ∈ internalOps w r) ∧
    (.errNoise ∈ raisedClasses w r →
      (stepRule w r).disp = c.patError ∧ (stepRule w r).dispWe = true ∧
      (stepRule w r).buf = r.buf ∧ (stepRule w r).cnt = r.cnt) ∧
    (.errLong ∈ raisedClasses w r →
      (stepRule w r).disp = c.patError ∧ (stepRule w r).dispWe = true ∧
      ((beforeEdge w r).elapsed.toNat ≤ c.tHigh → appendsOf (internalOps w r) = [true] ∧ (stepRule w r).cnt = r.cnt + 1)) ∧
    (raisedClasses w r = [.evtTimeout] →
      (stepRule w r).disp = c.patBlank ∧ (stepRule w r).dispWe = true ∧ (stepRule w r).elapsed = 0 ∧
      (.acceptedPress ∉ internalOps w r → (stepRule w r).timing = false) ∧
      (stepRule w r).buf = r.buf ∧ (stepRule w r).cnt = r.cnt)

/-! ### Invariants -/

/-- The state after a reset step, under every well-formed configuration and either key level, meets the invariants
(spec/70_reset_and_hazards.md R90, spec/10_state.md R30); so does `State.reset`. -/
def Obligations.ResetMeetsInvariant : Prop :=
  State.reset.Inv ∧
  (∀ (c : Config) (k : Bool), c.wf = true → (State.resetWith c k).Inv ∧ (State.resetWith c k).regs.HighBitsClear)

/-- spec/10_state.md R30 (items 1, 3, 4, 5, 7) and R26: every step keeps the invariant. -/
def Obligations.StepKeepsInvariant : Prop :=
  ∀ s t : State, s.Inv → step s = .next t → t.Inv

/-- spec/43_symbol_buffer.md R74 item 4: every step keeps the bits from `2^CNT_W` on at 0. -/
def Obligations.StepKeepsHighBitsClear : Prop :=
  ∀ s t : State, s.regs.HighBitsClear → step s = .next t → t.regs.HighBitsClear

/-- spec/10_state.md R28: no step changes the configuration. -/
def Obligations.StepKeepsConfiguration : Prop :=
  ∀ s t : State, step s = .next t → t.config = s.config

/-- spec/10_state.md R30 item 3 and R26: with both mode bits at 1, `timing = pressed` and only IDLE and TIMING occur. -/
def Obligations.ReferenceModeControl : Prop :=
  ∀ (c : Config) (r : Regs c), r.Inv → c.releaseStopsTiming = true → c.timeoutClearsLatch = true →
    r.timing = r.pressed ∧ (r.control = .idle ∨ r.control = .timing)

/-- spec/10_state.md R30 item 2: as long as no press has been accepted since a TIMEOUT or a reset, `timing` and `elapsed`
are 0. -/
def Obligations.ElapsedZeroUntilNextPress : Prop :=
  ∀ (c : Config) (r : Regs c) (w : In3) (ws : List In3), w.rst = true ∨ .timeout ∈ internalOps w r →
    .acceptedPress ∉ runOps r (w :: ws) →
    (runWords r (w :: ws)).timing = false ∧ (runWords r (w :: ws)).elapsed = 0

/-! ### Runs -/

/-- spec/41_timer_state_machine.md R66: from an accepted press to the first accepted release after it, with no TIMEOUT and no
reset between, the duration classified is the number of tick steps after the press, the release step included. That R66's
"later" release is the first accepted one is the model's reading (DEDUCED, log entry 11). -/
def Obligations.ReleaseClassifiesTicksSincePress : Prop :=
  ∀ (c : Config) (r : Regs c) (p q : In3) (held : List In3), c.wf = true →
    .acceptedPress ∈ internalOps p r →
    (∀ w ∈ held ++ [q], w.rst = false) →
    .timeout ∉ runOps (stepRule p r) (held ++ [q]) →
    .acceptedRelease ∉ runOps (stepRule p r) held →
    .acceptedRelease ∈ internalOps q (runWords (stepRule p r) held) →
    (beforeEdge q (runWords (stepRule p r) held)).elapsed.toNat = (held ++ [q]).countP (fun w => w.tick)

/-- spec/30_encoding.md R48 (`HOLD n`), with R66, R68, R69 and R73: from IDLE with the key up, a hold of fewer than `T_MAX`
ticks ends as the classification of exactly `n`. -/
def Obligations.HoldIsClassifiedByItsTicks : Prop :=
  ∀ (c : Config) (r : Regs c) (n : Nat), c.wf = true → r.control = .idle → r.keyQ = false → n < c.tMax →
    let t := runWords r (TraceOp.hold n).words
    t.elapsed.toNat = n ∧ t.keyQ = false ∧ t.pressed = false ∧ t.timing = !c.releaseStopsTiming ∧ t.timerClr = false ∧
    (Appends c n → t.cnt = r.cnt + 1 ∧ ∀ i, i < c.bufW →
      t.buf.getLsbD i = if i = r.cnt.toNat then decide (c.tMid < n) else r.buf.getLsbD i) ∧
    (¬ Appends c n → t.cnt = r.cnt ∧ t.buf = r.buf) ∧
    (ShowsError c n → t.disp = c.patError ∧ t.dispWe = true) ∧
    (¬ ShowsError c n → t.disp = r.disp ∧ t.dispWe = false)

/-- spec/41_timer_state_machine.md R57, R56: a key held while timing, for at least as many ticks as are missing to `T_MAX`, ends
in a TIMEOUT: not timing, counter 0, display blank, buffer as before; with `TIMEOUT_CLEARS_LATCH = 1` the release that
follows is rejected. -/
def Obligations.HeldKeyTimesOut : Prop :=
  ∀ (c : Config) (r : Regs c) (m : Nat), c.wf = true → r.timing = true → r.keyQ = true → r.elapsed.toNat < c.tMax →
    c.tMax ≤ r.elapsed.toNat + m →
    let t := runWords r (Trace.line (.tick true) m .nil).words
    t.timing = false ∧ t.elapsed = 0 ∧ t.disp = c.patBlank ∧ t.buf = r.buf ∧ t.cnt = r.cnt ∧
    t.pressed = (!c.timeoutClearsLatch && r.pressed) ∧
    (c.timeoutClearsLatch = true → .acceptedRelease ∉ internalOps (In3.idleWord false) t)

/-- spec/70_reset_and_hazards.md R97 item 2 and spec/40_edge_detect.md R51: while timing without a latched press
(RELEASED_TIMING), a press that no TIMEOUT precedes is rejected whole. The run with the press, the key held through any
words, and the release leaves exactly the registers of the run with the key up throughout. -/
def Obligations.RejectedPressLeavesNoTrace : Prop :=
  ∀ (c : Config) (r : Regs c) (held : List In3) (q : In3), r.control = .releasedTiming → r.keyQ = false →
    (∀ w ∈ held, w.rst = false ∧ w.key = true) → q.rst = false → q.key = false →
    .timeout ∉ runOps r (held ++ [q]) →
    runWords r (held ++ [q]) = runWords r (held.map (fun w => { w with key := false }) ++ [q])

/-- spec/70_reset_and_hazards.md R97 item 2, second half: with `RELEASE_STOPS_TIMING = 1`, a press in the step after an accepted
release is accepted. -/
def Obligations.PressAfterReleaseAccepted : Prop :=
  ∀ (c : Config) (r : Regs c) (q p : In3), c.releaseStopsTiming = true → .acceptedRelease ∈ internalOps q r →
    p.rst = false → p.key = true → .acceptedPress ∈ internalOps p (stepRule q r)

/-- spec/70_reset_and_hazards.md R97 item 3: the error pattern stays until a TIMEOUT or a reset. -/
def Obligations.ErrorPatternPersists : Prop :=
  ∀ (c : Config) (r : Regs c) (ws : List In3), r.disp = c.patError → (∀ w ∈ ws, w.rst = false) →
    .timeout ∉ runOps r ws → (runWords r ws).disp = c.patError

/-- spec/70_reset_and_hazards.md R97 item 4: with `RELEASE_STOPS_TIMING = 1`, under the invariant, a TIMEOUT runs only while a
press is held, at the tick that brings the count to `T_MAX`. -/
def Obligations.TimeoutOnlyWhileHeld : Prop :=
  ∀ (c : Config) (r : Regs c) (w : In3), r.Inv → c.releaseStopsTiming = true → .timeout ∈ internalOps w r →
    r.pressed = true ∧ r.keyQ = true ∧ r.elapsed.toNat + 1 = c.tMax

/-- spec/60_exceptions.md R89: while not timing and with the key steady, a run of NOPs and TICKs changes nothing but the
pulses. -/
def Obligations.SteadyIdleHasNoEffect : Prop :=
  ∀ (c : Config) (r : Regs c) (ws : List In3), r.timing = false → ws ≠ [] →
    (∀ w ∈ ws, w.rst = false ∧ w.key = r.keyQ) →
    runWords r ws = { r with dispWe := false, timerClr := false }

/-- spec/70_reset_and_hazards.md R91: after one reset step the state is determined, whatever the registers were. -/
def Obligations.ResetForgetsThePast : Prop :=
  ∀ (c : Config) (r r' : Regs c) (before : List In3) (w : In3) (after : List In3), w.rst = true →
    runWords r (before ++ w :: after) = runWords r' (w :: after)

/-- spec/40_edge_detect.md R52, a bounce from IDLE with the key up (`DOWN; UP; DOWN` in the words of spec/30_encoding.md R48, a
press edge, a release edge, a press edge): with `RELEASE_STOPS_TIMING = 1` the second press is accepted
and timed from 0, with 0 it is rejected; the error pattern shows and the buffer is as before. -/
def Obligations.BounceAtPress : Prop :=
  ∀ (c : Config) (r : Regs c), c.wf = true → r.control = .idle → r.keyQ = false →
    runWords r [In3.idleWord true, In3.idleWord false, In3.idleWord true] =
      { r with
        keyQ := true, timing := true, pressed := c.releaseStopsTiming, elapsed := 0, disp := c.patError,
        dispWe := false, timerClr := c.releaseStopsTiming }

/-- spec/43_symbol_buffer.md R73, its paragraph on the round trip, and spec/90_conflicts.md C6: with `RELEASE_STOPS_TIMING = 1`, from
IDLE with the key up, any sequence of holds of any lengths with any gaps appends one symbol for each hold of `T_LOW` to
`T_HIGH` ticks, in order, a dash exactly above `T_MID`; noise, over-range and timed-out holds append nothing. -/
def Obligations.HoldsAppendTheirSymbols : Prop :=
  ∀ (c : Config) (r : Regs c) (presses : List (Nat × Nat)), c.wf = true → c.releaseStopsTiming = true →
    r.control = .idle → r.keyQ = false →
    let ws := presses.flatMap (fun p => (TraceOp.hold p.1).words ++ (TraceOp.gap p.2).words)
    (runWords r ws).control = .idle ∧ (runWords r ws).keyQ = false ∧
    appendsOf (runOps r ws) =
      ((presses.map Prod.fst).filter (fun n => decide (c.tLow ≤ n ∧ n ≤ c.tHigh))).map (fun n => decide (c.tMid < n))
end

