-- ==== Sys2Proof/Laws/Decode.lean ====
section
/-! SUPPORT. The decoder, the encoder and the edges, as finite facts checked once. -/

namespace Sys2Proof

/-- No input word gives a press edge and a release edge together (spec/40_edge_detect.md R50). -/
theorem eventOf_possible (w : In3) (keyQ : Bool) : (eventOf w keyQ).possible = true := by
  obtain ⟨r, t, k⟩ := w
  cases r <;> cases t <;> cases k <;> cases keyQ <;> decide

/-- Every input word, with either sampled key level, selects an operation. -/
theorem operationOf_total (w : In3) (keyQ : Bool) : ∃ i, operationOf w keyQ = .ok i := by
  obtain ⟨r, t, k⟩ := w
  cases r <;> cases t <;> cases k <;> cases keyQ <;> exact ⟨_, rfl⟩

/-- A non-reset operation determines the input word that selected it. -/
theorem inputFor_operationOf (w : In3) (keyQ : Bool) (i : Instr) (hr : w.rst = false) (h : operationOf w keyQ = .ok i) :
    inputFor (encode i) keyQ = w := by
  obtain ⟨r, t, k⟩ := w
  cases hr
  cases t <;> cases k <;> cases keyQ <;> cases h <;> rfl

/-- An event vector that can occur is the one its own input word gives. -/
theorem eventOf_inputFor : ∀ (v : EventVector) (keyQ : Bool), v.possible = true →
    eventOf (inputFor v keyQ) (keyQFor v keyQ) = v := by
  decide

end Sys2Proof
end

