-- ==== Sys2Proof/Laws/Operands.lean ====
section
/-! SUPPORT. The comparisons, the classes, the assigned bit and the guards, each as plain arithmetic and logic. -/

namespace Sys2Proof.Machine

variable {c : Config}

@[simp] theorem atLeast_eq_true {w : Nat} {v : BitVec w} {n : Nat} : atLeast v n = true ↔ n ≤ v.toNat := by
  simp [atLeast]

@[simp] theorem atLeast_eq_false {w : Nat} {v : BitVec w} {n : Nat} : atLeast v n = false ↔ v.toNat < n := by
  simp [atLeast]

@[simp] theorem above_eq_true {w : Nat} {v : BitVec w} {n : Nat} : above v n = true ↔ n < v.toNat := by
  simp [above]

@[simp] theorem above_eq_false {w : Nat} {v : BitVec w} {n : Nat} : above v n = false ↔ v.toNat ≤ n := by
  simp [above]

@[simp] theorem longOf_eq_true {v : BitVec c.ctrW} : longOf c v = true ↔ c.tLong < v.toNat := by
  simp [longOf]

/-- The class of a duration, as one case distinction over the thresholds. -/
theorem classOf_cases (v : BitVec c.ctrW) :
    (classOf c v = .noise ∧ v.toNat < c.tLow) ∨
    (classOf c v = .dot ∧ c.tLow ≤ v.toNat ∧ v.toNat ≤ c.tMid) ∨
    (classOf c v = .dash ∧ c.tLow ≤ v.toNat ∧ c.tMid < v.toNat ∧ v.toNat ≤ c.tHigh) ∨
    (classOf c v = .over ∧ c.tLow ≤ v.toNat ∧ c.tMid < v.toNat ∧ c.tHigh < v.toNat) := by
  unfold classOf
  split
  · left; simp_all
  · split
    · right; left; simp_all
    · split <;> simp_all

/-- The assigned bit has the new value and every other bit is kept. -/
theorem getLsbD_assignBit {w : Nat} (v : BitVec w) (j i : Nat) (b : Bool) (h : i < w) :
    (assignBit v j b).getLsbD i = if i = j then b else v.getLsbD i := by
  unfold assignBit
  by_cases hij : i = j
  · subst hij
    cases b <;> simp [h]
  · cases b <;> simp [h, hij]

/-- The counter after a tick, as a number. -/
theorem toNat_nextElapsed (r : Regs c) : (nextElapsed r).toNat = (r.elapsed.toNat + 1) % 2 ^ c.ctrW := by
  simp [nextElapsed, BitVec.toNat_add]

@[simp] theorem pressAccepted_eq_true {r : Regs c} : pressAccepted r = true ↔ r.timing = false ∧ r.pressed = false := by
  simp [pressAccepted]

@[simp] theorem releaseAccepted_eq {r : Regs c} : releaseAccepted r = r.pressed := rfl

@[simp] theorem tickCounts_eq {r : Regs c} : tickCounts r = r.timing := rfl

theorem tickTimesOut_eq_true {r : Regs c} :
    tickTimesOut r = true ↔ r.timing = true ∧ c.tMax ≤ (r.elapsed.toNat + 1) % 2 ^ c.ctrW := by
  simp [tickTimesOut, toNat_nextElapsed]

theorem pressedAfterTimeout_eq (p : Bool) : pressedAfterTimeout c p = (!c.timeoutClearsLatch && p) := by
  unfold pressedAfterTimeout
  cases c.timeoutClearsLatch <;> rfl

theorem timingAfterRelease_eq (t : Bool) : timingAfterRelease c t = (!c.releaseStopsTiming && t) := by
  unfold timingAfterRelease
  cases c.releaseStopsTiming <;> rfl

end Sys2Proof.Machine
end

