-- ==== Sys2Proof/Laws/State.lean ====
section
/-! SUPPORT. One lemma per register for each unconditional update of the registers: what the update leaves in it. Proofs
over the operations rewrite with these and never unfold a record update. -/

namespace Sys2Proof.Machine

variable {c : Config} (w : Regs c) (p : Pattern) (b k : Bool)

section PulseClear
@[simp] theorem pulseClear_keyQ : (pulseClear w).keyQ = w.keyQ := rfl
@[simp] theorem pulseClear_timing : (pulseClear w).timing = w.timing := rfl
@[simp] theorem pulseClear_pressed : (pulseClear w).pressed = w.pressed := rfl
@[simp] theorem pulseClear_elapsed : (pulseClear w).elapsed = w.elapsed := rfl
@[simp] theorem pulseClear_buf : (pulseClear w).buf = w.buf := rfl
@[simp] theorem pulseClear_cnt : (pulseClear w).cnt = w.cnt := rfl
@[simp] theorem pulseClear_disp : (pulseClear w).disp = w.disp := rfl
@[simp] theorem pulseClear_dispWe : (pulseClear w).dispWe = false := rfl
@[simp] theorem pulseClear_timerClr : (pulseClear w).timerClr = false := rfl
end PulseClear

section ShowPattern
@[simp] theorem showPattern_keyQ : (showPattern p w).keyQ = w.keyQ := rfl
@[simp] theorem showPattern_timing : (showPattern p w).timing = w.timing := rfl
@[simp] theorem showPattern_pressed : (showPattern p w).pressed = w.pressed := rfl
@[simp] theorem showPattern_elapsed : (showPattern p w).elapsed = w.elapsed := rfl
@[simp] theorem showPattern_buf : (showPattern p w).buf = w.buf := rfl
@[simp] theorem showPattern_cnt : (showPattern p w).cnt = w.cnt := rfl
@[simp] theorem showPattern_disp : (showPattern p w).disp = p := rfl
@[simp] theorem showPattern_dispWe : (showPattern p w).dispWe = true := rfl
@[simp] theorem showPattern_timerClr : (showPattern p w).timerClr = w.timerClr := rfl
end ShowPattern

section Timeout
@[simp] theorem timeout_keyQ : (timeout w).keyQ = w.keyQ := rfl
@[simp] theorem timeout_timing : (timeout w).timing = false := rfl
@[simp] theorem timeout_pressed : (timeout w).pressed = pressedAfterTimeout c w.pressed := rfl
@[simp] theorem timeout_elapsed : (timeout w).elapsed = 0 := rfl
@[simp] theorem timeout_buf : (timeout w).buf = w.buf := rfl
@[simp] theorem timeout_cnt : (timeout w).cnt = w.cnt := rfl
@[simp] theorem timeout_disp : (timeout w).disp = c.patBlank := rfl
@[simp] theorem timeout_dispWe : (timeout w).dispWe = true := rfl
@[simp] theorem timeout_timerClr : (timeout w).timerClr = w.timerClr := rfl
end Timeout

section CountTick
@[simp] theorem countTick_keyQ : (countTick w).keyQ = w.keyQ := rfl
@[simp] theorem countTick_timing : (countTick w).timing = w.timing := rfl
@[simp] theorem countTick_pressed : (countTick w).pressed = w.pressed := rfl
@[simp] theorem countTick_elapsed : (countTick w).elapsed = w.elapsed + 1 := rfl
@[simp] theorem countTick_buf : (countTick w).buf = w.buf := rfl
@[simp] theorem countTick_cnt : (countTick w).cnt = w.cnt := rfl
@[simp] theorem countTick_disp : (countTick w).disp = w.disp := rfl
@[simp] theorem countTick_dispWe : (countTick w).dispWe = w.dispWe := rfl
@[simp] theorem countTick_timerClr : (countTick w).timerClr = w.timerClr := rfl
end CountTick

section Append
@[simp] theorem append_keyQ : (append b w).keyQ = w.keyQ := rfl
@[simp] theorem append_timing : (append b w).timing = w.timing := rfl
@[simp] theorem append_pressed : (append b w).pressed = w.pressed := rfl
@[simp] theorem append_elapsed : (append b w).elapsed = w.elapsed := rfl
@[simp] theorem append_cnt : (append b w).cnt = w.cnt + 1 := rfl
@[simp] theorem append_disp : (append b w).disp = w.disp := rfl
@[simp] theorem append_dispWe : (append b w).dispWe = w.dispWe := rfl
@[simp] theorem append_timerClr : (append b w).timerClr = w.timerClr := rfl
end Append

section AcceptPress
@[simp] theorem acceptPress_keyQ : (acceptPress w).keyQ = w.keyQ := rfl
@[simp] theorem acceptPress_timing : (acceptPress w).timing = true := rfl
@[simp] theorem acceptPress_pressed : (acceptPress w).pressed = true := rfl
@[simp] theorem acceptPress_elapsed : (acceptPress w).elapsed = 0 := rfl
@[simp] theorem acceptPress_buf : (acceptPress w).buf = w.buf := rfl
@[simp] theorem acceptPress_cnt : (acceptPress w).cnt = w.cnt := rfl
@[simp] theorem acceptPress_disp : (acceptPress w).disp = w.disp := rfl
@[simp] theorem acceptPress_dispWe : (acceptPress w).dispWe = w.dispWe := rfl
@[simp] theorem acceptPress_timerClr : (acceptPress w).timerClr = true := rfl
end AcceptPress

section EndPress
@[simp] theorem endPress_keyQ : (endPress w).keyQ = w.keyQ := rfl
@[simp] theorem endPress_timing : (endPress w).timing = timingAfterRelease c w.timing := rfl
@[simp] theorem endPress_pressed : (endPress w).pressed = false := rfl
@[simp] theorem endPress_elapsed : (endPress w).elapsed = w.elapsed := rfl
@[simp] theorem endPress_buf : (endPress w).buf = w.buf := rfl
@[simp] theorem endPress_cnt : (endPress w).cnt = w.cnt := rfl
@[simp] theorem endPress_disp : (endPress w).disp = w.disp := rfl
@[simp] theorem endPress_dispWe : (endPress w).dispWe = w.dispWe := rfl
@[simp] theorem endPress_timerClr : (endPress w).timerClr = w.timerClr := rfl
end EndPress

section SampleKey
@[simp] theorem sampleKey_keyQ : (sampleKey k w).keyQ = k := rfl
@[simp] theorem sampleKey_timing : (sampleKey k w).timing = w.timing := rfl
@[simp] theorem sampleKey_pressed : (sampleKey k w).pressed = w.pressed := rfl
@[simp] theorem sampleKey_elapsed : (sampleKey k w).elapsed = w.elapsed := rfl
@[simp] theorem sampleKey_buf : (sampleKey k w).buf = w.buf := rfl
@[simp] theorem sampleKey_cnt : (sampleKey k w).cnt = w.cnt := rfl
@[simp] theorem sampleKey_disp : (sampleKey k w).disp = w.disp := rfl
@[simp] theorem sampleKey_dispWe : (sampleKey k w).dispWe = w.dispWe := rfl
@[simp] theorem sampleKey_timerClr : (sampleKey k w).timerClr = w.timerClr := rfl
end SampleKey

/-- RESET writes every register, so it is the reset value whatever the registers were. -/
@[simp] theorem resetRegs_eq_reset : resetRegs k w = Regs.reset c k := rfl

section Reset
@[simp] theorem reset_keyQ : (Regs.reset c k).keyQ = k := rfl
@[simp] theorem reset_timing : (Regs.reset c k).timing = false := rfl
@[simp] theorem reset_pressed : (Regs.reset c k).pressed = false := rfl
@[simp] theorem reset_elapsed : (Regs.reset c k).elapsed = 0 := rfl
@[simp] theorem reset_buf : (Regs.reset c k).buf = 0 := rfl
@[simp] theorem reset_cnt : (Regs.reset c k).cnt = 0 := rfl
@[simp] theorem reset_disp : (Regs.reset c k).disp = c.patBlank := rfl
@[simp] theorem reset_dispWe : (Regs.reset c k).dispWe = false := rfl
@[simp] theorem reset_timerClr : (Regs.reset c k).timerClr = false := rfl
end Reset

end Sys2Proof.Machine
end

