-- ==== Sys2Proof/Laws/Ops.lean ====
section
/-! SUPPORT. What each phase can do, said once: the tick, press and release phases meet the effects of Safety.lean, and the
registers no phase of a kind writes are kept. Later proofs cite these and do not unfold a phase. -/

namespace Sys2Proof.Machine

variable {c : Config}

/-- Everything a tick phase can do. -/
theorem tickPhase_cases (w : Regs c) :
    (w.timing = false ∧ tickPhase w = w) ∨
    (w.timing = true ∧ tickTimesOut w = false ∧ tickPhase w = countTick w) ∨
    (w.timing = true ∧ tickTimesOut w = true ∧ tickPhase w = timeout (countTick w)) := by
  unfold tickPhase
  by_cases ht : w.timing = true <;> by_cases ho : tickTimesOut w = true <;> simp_all

/-- Everything a press phase can do. -/
theorem pressPhase_cases (w : Regs c) :
    (w.timing = false ∧ w.pressed = false ∧ pressPhase w = acceptPress w) ∨
    ((w.timing = true ∨ w.pressed = true) ∧ pressPhase w = w) := by
  unfold pressPhase pressAccepted
  cases ht : w.timing <;> cases hp : w.pressed <;> simp

/-- Everything a release phase can do. -/
theorem releasePhase_cases (w : Regs c) :
    (w.pressed = false ∧ releasePhase w = w) ∨ (w.pressed = true ∧ releasePhase w = acceptRelease w) := by
  unfold releasePhase
  by_cases hp : w.pressed = true <;> simp_all

/-- The tick phase has the effect of R56 and R57. -/
theorem tickPhase_effect (w : Regs c) : TickEffect w (tickPhase w) := by
  rcases tickPhase_cases w with ⟨ht, h⟩ | ⟨ht, ho, h⟩ | ⟨ht, ho, h⟩
  · exact ⟨fun _ => h, by simp [ht], by simp [ht]⟩
  · have ho' : ¬ c.tMax ≤ (w.elapsed.toNat + 1) % 2 ^ c.ctrW := by
      intro hle
      simp [tickTimesOut_eq_true.mpr ⟨ht, hle⟩] at ho
    exact ⟨by simp [ht], fun _ _ => h, fun _ hle => absurd hle ho'⟩
  · have ho' := (tickTimesOut_eq_true.mp ho).2
    refine ⟨by simp [ht], fun _ hlt => absurd ho' (by omega), fun _ _ => ?_⟩
    rw [h, ← pressedAfterTimeout_eq]
    rfl

/-- The press phase has the effect of R58. -/
theorem pressPhase_effect (w : Regs c) : PressEffect w (pressPhase w) := by
  rcases pressPhase_cases w with ⟨ht, hp, h⟩ | ⟨hor, h⟩
  · exact ⟨fun _ _ => h, by simp [ht, hp]⟩
  · exact ⟨fun ht hp => by simp [ht, hp] at hor, fun _ => h⟩

/-- What ACT leaves in the registers it never writes. -/
theorem act_kept (cls : SymbolClass) (lng : Bool) (w : Regs c) :
    (act cls lng w).keyQ = w.keyQ ∧ (act cls lng w).timing = w.timing ∧ (act cls lng w).pressed = w.pressed ∧
      (act cls lng w).elapsed = w.elapsed ∧ (act cls lng w).timerClr = w.timerClr := by
  cases cls <;> cases lng <;> exact ⟨rfl, rfl, rfl, rfl, rfl⟩

/-- The symbol buffer after ACT: that of the APPEND the class runs, if it runs one. -/
theorem act_buffer (cls : SymbolClass) (lng : Bool) (w : Regs c) :
    match cls.appendOperand with
    | none => (act cls lng w).buf = w.buf ∧ (act cls lng w).cnt = w.cnt
    | some b => (act cls lng w).buf = (append b w).buf ∧ (act cls lng w).cnt = w.cnt + 1 := by
  cases cls <;> cases lng <;> exact ⟨rfl, rfl⟩

/-- The display after ACT. -/
theorem act_display (cls : SymbolClass) (lng : Bool) (w : Regs c) :
    ((cls = .noise ∨ lng = true) → (act cls lng w).disp = c.patError ∧ (act cls lng w).dispWe = true) ∧
      (¬ (cls = .noise ∨ lng = true) → (act cls lng w).disp = w.disp ∧ (act cls lng w).dispWe = w.dispWe) := by
  cases cls <;> cases lng <;> simp [act, actLong, actClass]

/-- The bits of the buffer after an APPEND (R73, R74): the bit at `cnt` is assigned where the buffer has one. -/
theorem append_getLsbD (b : Bool) (w : Regs c) (i : Nat) (h : i < c.bufW) :
    (append b w).buf.getLsbD i = if i = w.cnt.toNat then b else w.buf.getLsbD i := by
  unfold append
  cases hc : atLeast w.cnt c.bufW
  · simpa [hc] using getLsbD_assignBit w.buf w.cnt.toNat i b h
  · have : i ≠ w.cnt.toNat := by
      have := atLeast_eq_true.mp hc
      omega
    simp [this]

/-- The release phase has the effect of R59, R68, R69 and R73. -/
theorem releasePhase_effect (w : Regs c) : ReleaseEffect w (releasePhase w) := by
  rcases releasePhase_cases w with ⟨hp, h⟩ | ⟨hp, h⟩
  · constructor <;> simp_all
  · have hk := act_kept (classOf c w.elapsed) (longOf c w.elapsed) w
    have hb := act_buffer (classOf c w.elapsed) (longOf c w.elapsed) w
    have hd := act_display (classOf c w.elapsed) (longOf c w.elapsed) w
    have hl : longOf c w.elapsed = true ↔ c.tLong < w.elapsed.toNat := longOf_eq_true
    rw [h]
    obtain ⟨hkq, hti, -, hel, htc⟩ := hk
    refine ⟨by simp [hp], fun _ => ?_, fun _ => ?_, fun _ ha => ?_, fun _ ha i hi => ?_, fun _ ha => ?_, fun _ hs => ?_,
      fun _ hs => ?_⟩
    · exact ⟨rfl, by simp [acceptRelease, classify, hti, timingAfterRelease_eq]⟩
    · exact ⟨hel, hkq, htc⟩
    · obtain ⟨hlo, hhi⟩ := ha
      rcases classOf_cases w.elapsed with ⟨hc, h1⟩ | ⟨hc, h1, h2⟩ | ⟨hc, h1, h2, h3⟩ | ⟨hc, h1, h2, h3⟩
      · omega
      · rw [hc] at hb; exact (by simpa [acceptRelease, classify, hc, SymbolClass.appendOperand] using hb.2)
      · rw [hc] at hb; exact (by simpa [acceptRelease, classify, hc, SymbolClass.appendOperand] using hb.2)
      · omega
    · obtain ⟨hlo, hhi⟩ := ha
      rcases classOf_cases w.elapsed with ⟨hc, h1⟩ | ⟨hc, h1, h2⟩ | ⟨hc, h1, h2, h3⟩ | ⟨hc, h1, h2, h3⟩
      · omega
      · rw [hc] at hb
        have hbit : decide (c.tMid < w.elapsed.toNat) = false := by simpa using h2
        simp only [acceptRelease, classify, hc, endPress_buf, hbit]
        rw [show (act SymbolClass.dot (longOf c w.elapsed) w).buf = (append false w).buf from hb.1]
        exact append_getLsbD false w i hi
      · rw [hc] at hb
        have hbit : decide (c.tMid < w.elapsed.toNat) = true := by simpa using h2
        simp only [acceptRelease, classify, hc, endPress_buf, hbit]
        rw [show (act SymbolClass.dash (longOf c w.elapsed) w).buf = (append true w).buf from hb.1]
        exact append_getLsbD true w i hi
      · omega
    · unfold Appends at ha
      rcases classOf_cases w.elapsed with ⟨hc, h1⟩ | ⟨hc, h1, h2⟩ | ⟨hc, h1, h2, h3⟩ | ⟨hc, h1, h2, h3⟩
      · rw [hc] at hb; exact ⟨by simpa [acceptRelease, classify, hc] using hb.2, by simpa [acceptRelease, classify, hc] using hb.1⟩
      · omega
      · omega
      · rw [hc] at hb; exact ⟨by simpa [acceptRelease, classify, hc] using hb.2, by simpa [acceptRelease, classify, hc] using hb.1⟩
    · refine hd.1 ?_
      unfold ShowsError at hs
      rcases classOf_cases w.elapsed with ⟨hc, h1⟩ | ⟨hc, h1, h2⟩ | ⟨hc, h1, h2, h3⟩ | ⟨hc, h1, h2, h3⟩
      · exact .inl hc
      all_goals exact .inr (hl.mpr (by omega))
    · refine hd.2 ?_
      unfold ShowsError at hs
      rintro (hc' | hl')
      · rcases classOf_cases w.elapsed with ⟨hc, h1⟩ | ⟨hc, h1, h2⟩ | ⟨hc, h1, h2, h3⟩ | ⟨hc, h1, h2, h3⟩
        · omega
        all_goals simp [hc] at hc'
      · have := hl.mp hl'
        omega

end Sys2Proof.Machine
end

