-- ==== Sys2Proof/Laws/PerInstr.lean ====
section
/-! SUPPORT. The family InputSelects: the input word made for an operation's encoding selects that operation, at the sampled
key level it needs (spec/30_encoding.md R41, R42). -/

namespace Sys2Proof.Laws.InputSelects

/-- What the family says of one operation. -/
def Statement (i : Instr) : Prop :=
  ∀ keyQ : Bool, operationOf (inputFor (encode i) keyQ) (keyQFor (encode i) keyQ) = .ok i

theorem rst : Statement .rst := by unfold Statement; decide
theorem nop : Statement .nop := by unfold Statement; decide
theorem tick : Statement .tick := by unfold Statement; decide
theorem press : Statement .press := by unfold Statement; decide
theorem release : Statement .release := by unfold Statement; decide
theorem tickPress : Statement .tickPress := by unfold Statement; decide
theorem tickRelease : Statement .tickRelease := by unfold Statement; decide

end Sys2Proof.Laws.InputSelects
end

