-- ==== Sys2Proof/Laws/Step.lean ====
section
/-! SUPPORT. What a fetch and a meaning can answer, said once. -/

namespace Sys2Proof.Machine

variable {c : Config}

/-- Everything a fetch can answer. -/
theorem fetch_cases (s : State) :
    (s.config.wf = false ∧ fetch s = .error .configNotWellFormed) ∨
    (s.config.wf = true ∧ s.inputs = [] ∧ fetch s = .error .endOfRun) ∨
    (∃ w rest i, s.config.wf = true ∧ s.inputs = w :: rest ∧ operationOf w s.regs.keyQ = .ok i ∧
      fetch s = .ok (i, s.takeWord w rest)) := by
  by_cases hwf : s.config.wf = true
  · rcases hin : s.inputs with _ | ⟨w, rest⟩
    · exact .inr (.inl ⟨hwf, rfl, by simp [fetch, hwf, hin]⟩)
    · obtain ⟨i, hi⟩ := operationOf_total w s.regs.keyQ
      exact .inr (.inr ⟨w, rest, i, hwf, rfl, hi, by simp [fetch, hwf, hin, hi]⟩)
  · exact .inl ⟨by simpa using hwf, by simp [fetch, hwf]⟩

/-- The registers a meaning leaves. -/
def regsAfter (i : Instr) (k : Bool) (r : Regs c) : Regs c :=
  match i with
  | .rst         => Regs.reset c k
  | .nop         => sampleKey k (pulseClear r)
  | .tick        => sampleKey k (tickPhase (pulseClear r))
  | .press       => sampleKey true (pressPhase (pulseClear r))
  | .release     => sampleKey false (releasePhase (pulseClear r))
  | .tickPress   => sampleKey true (pressPhase (tickPhase (pulseClear r)))
  | .tickRelease => sampleKey false (releasePhase (tickPhase (pulseClear r)))

/-- Every meaning answers a next state and writes registers only. -/
theorem exec_eq (i : Instr) (s : State) : exec i s = .next { s with regs := regsAfter i s.sample.key s.regs } := by
  cases i <;> rfl

/-- The registers after the operation that an input word selects are those of the step function of R54. -/
theorem regsAfter_eq_stepRule (w : In3) (r : Regs c) (i : Instr) (h : operationOf w r.keyQ = .ok i) :
    regsAfter i w.key r = stepRule w r := by
  obtain ⟨rs, t, k⟩ := w
  rcases hq : r.keyQ with _ | _ <;> rw [hq] at h <;> cases rs <;> cases t <;> cases k <;> cases h <;>
    simp [regsAfter, stepRule, hq, riseOf, fallOf]

end Sys2Proof.Machine
end

