-- ==== Sys2Proof/Laws/Run.lean ====
section
/-! SUPPORT. What one step of the step function can do, said once, with the internal operations it performs, and how runs
compose. Later proofs take a step apart with `beforeEdge_cases` and `stepRule_cases`. -/

namespace Sys2Proof.Machine

variable {c : Config}

/-- A tick phase writes neither the buffer, nor its count, nor the sampled key, nor the press pulse. -/
theorem tickPhase_kept (w : Regs c) :
    (tickPhase w).buf = w.buf ∧ (tickPhase w).cnt = w.cnt ∧ (tickPhase w).keyQ = w.keyQ ∧
      (tickPhase w).timerClr = w.timerClr := by
  rcases tickPhase_cases w with ⟨_, h⟩ | ⟨_, _, h⟩ | ⟨_, _, h⟩ <;> simp [h]

/-- A press phase writes neither the buffer, nor its count, nor the display. -/
theorem pressPhase_kept (w : Regs c) :
    (pressPhase w).buf = w.buf ∧ (pressPhase w).cnt = w.cnt ∧ (pressPhase w).disp = w.disp ∧
      (pressPhase w).dispWe = w.dispWe := by
  rcases pressPhase_cases w with ⟨_, _, h⟩ | ⟨_, h⟩ <;> simp [h]

/-- Everything that can have happened before the edge phase, and the internal operations of the tick phase. -/
theorem beforeEdge_cases (w : In3) (r : Regs c) :
    (beforeEdge w r = pulseClear r ∧ (w.tick = false ∨ r.timing = false) ∧ (if w.tick then tickOps r else []) = []) ∨
    (w.tick = true ∧ r.timing = true ∧ (r.elapsed.toNat + 1) % 2 ^ c.ctrW < c.tMax ∧
      beforeEdge w r = countTick (pulseClear r) ∧ (if w.tick then tickOps r else []) = []) ∨
    (w.tick = true ∧ r.timing = true ∧ c.tMax ≤ (r.elapsed.toNat + 1) % 2 ^ c.ctrW ∧
      beforeEdge w r = timeout (countTick (pulseClear r)) ∧
      (if w.tick then tickOps r else []) = [.timeout, .showBlank]) := by
  have hp : tickTimesOut (pulseClear r) = tickTimesOut r := rfl
  by_cases ht : w.tick = true
  · by_cases hti : r.timing = true
    · by_cases ho : c.tMax ≤ (r.elapsed.toNat + 1) % 2 ^ c.ctrW
      · have h1 : tickTimesOut r = true := tickTimesOut_eq_true.mpr ⟨hti, ho⟩
        exact .inr (.inr ⟨ht, hti, ho, by simp [beforeEdge, ht, tickPhase, hti, hp, h1], by simp [ht, tickOps, h1]⟩)
      · have h1 : ¬ tickTimesOut r = true := fun h => ho (tickTimesOut_eq_true.mp h).2
        exact .inr (.inl ⟨ht, hti, by omega, by simp [beforeEdge, ht, tickPhase, hti, hp, h1], by simp [ht, tickOps, h1]⟩)
    · have h1 : ¬ tickTimesOut r = true := fun h => hti (tickTimesOut_eq_true.mp h).1
      exact .inl ⟨by simp [beforeEdge, ht, tickPhase, hti], .inr (by simpa using hti), by simp [tickOps, h1]⟩
  · exact .inl ⟨by simp [beforeEdge, ht], .inl (by simpa using ht), by simp [ht]⟩

/-- A reset step gives the reset registers and performs no internal operation. -/
theorem stepRule_rst (w : In3) (r : Regs c) (h : w.rst = true) :
    stepRule w r = Regs.reset c w.key ∧ internalOps w r = [] := by
  simp [stepRule, internalOps, h]

/-- Everything a step that is no reset can do: a press edge, a release edge, or no edge. -/
theorem stepRule_cases (w : In3) (r : Regs c) (h : w.rst = false) :
    (w.key = true ∧ r.keyQ = false ∧ stepRule w r = sampleKey true (pressPhase (beforeEdge w r)) ∧
      internalOps w r = (if w.tick then tickOps r else []) ++ pressOps (beforeEdge w r)) ∨
    (w.key = false ∧ r.keyQ = true ∧ stepRule w r = sampleKey false (releasePhase (beforeEdge w r)) ∧
      internalOps w r = (if w.tick then tickOps r else []) ++ releaseOps (beforeEdge w r)) ∨
    (w.key = r.keyQ ∧ stepRule w r = sampleKey r.keyQ (beforeEdge w r) ∧
      internalOps w r = if w.tick then tickOps r else []) := by
  obtain ⟨rs, t, k⟩ := w
  subst h
  rcases hq : r.keyQ with _ | _ <;> cases k <;> simp [stepRule, internalOps, beforeEdge, riseOf, fallOf, hq]

/-- A release phase that is rejected performs nothing. -/
theorem releaseOps_rejected (w : Regs c) (h : w.pressed = false) : releaseOps w = [] := by simp [releaseOps, h]

/-- What an accepted release performs. -/
theorem releaseOps_accepted (w : Regs c) (h : w.pressed = true) :
    releaseOps w = [.acceptedRelease, .classify] ++ classOps (classOf c w.elapsed) ++
      (if longOf c w.elapsed then [.showError] else []) := by
  simp [releaseOps, h]

theorem appendsOf_append (xs ys : List InternalOp) : appendsOf (xs ++ ys) = appendsOf xs ++ appendsOf ys := by
  induction xs with
  | nil => rfl
  | cons x xs ih => cases x <;> simp [appendsOf, ih]

theorem runWords_append (r : Regs c) (xs ys : List In3) : runWords r (xs ++ ys) = runWords (runWords r xs) ys := by
  induction xs generalizing r with
  | nil => rfl
  | cons w ws ih => exact ih _

theorem runOps_append (r : Regs c) (xs ys : List In3) :
    runOps r (xs ++ ys) = runOps r xs ++ runOps (runWords r xs) ys := by
  induction xs generalizing r with
  | nil => rfl
  | cons w ws ih => simp [runOps, ih, runWords]

end Sys2Proof.Machine
end

