-- ==== Sys2Proof/Machine/TraceText.lean ====
section
/-! DEFINITION. Reading a program written as text in the trace syntax of spec/30_encoding.md R47 and R48 into a `Trace`.
What the grammar does not say (blanks, empty lines, how a number is written, where a count may stand, `REP 0`, an empty or
nested `REP` body) is the model's choice: DESIGN CHOICE, log entry 12. -/

namespace Sys2Proof.TraceText

/-- The words (names, numbers and key levels) and marks of the trace syntax. A line ends at a semicolon or a line break; both read as `eol`. -/
inductive Token where
  | word (cs : List Char)
  | star
  | eol
  | opening
  | closing
  deriving DecidableEq, Repr

/-- The value of a decimal digit. -/
def digit? (ch : Char) : Option Nat :=
  if 48 ≤ ch.toNat ∧ ch.toNat ≤ 57 then some (ch.toNat - 48) else none

/-- The value of digits read after `acc`, most significant digit first (spec/00_scope.md R9). -/
def digits? (acc : Nat) : List Char → Option Nat
  | [] => some acc
  | ch :: rest =>
    match digit? ch with
    | some d => digits? (acc * 10 + d) rest
    | none => none

/-- A decimal number (spec/30_encoding.md R47): one digit or more and nothing else. That leading zeros are read and mean
nothing (`007` is 7) is a DESIGN CHOICE (log entry 12). -/
def number? : List Char → Option Nat
  | [] => none
  | cs => digits? 0 cs

/-- The token that a run of characters makes, if there is one; the characters are held last first. -/
def pendingToken (pending : List Char) : List Token :=
  match pending.reverse with
  | [] => []
  | cs => [.word cs]

/-- The mark that a character is: a line end, a star, a curly bracket (code points 123 and 125). -/
def mark? (ch : Char) : Option Token :=
  if ch = ';' ∨ ch = '\n' then some .eol
  else if ch = '*' then some .star
  else if ch.toNat = 123 then some .opening
  else if ch.toNat = 125 then some .closing
  else none

/-- Text into tokens. Blanks separate and mean nothing else. -/
def tokens (pending : List Char) : List Char → List Token
  | [] => pendingToken pending
  | ch :: rest =>
    if ch = ' ' ∨ ch = '\t' ∨ ch = '\r' then pendingToken pending ++ tokens [] rest
    else
      match mark? ch with
      | some t => pendingToken pending ++ t :: tokens [] rest
      | none => tokens (ch :: pending) rest

/-- A key level: the one character `0` or the one character `1` (R47). -/
def level? : List Char → Option Bool
  | ['0'] => some false
  | ['1'] => some true
  | _ => none

/-- One operation with its operands (R47, R48), but for `REP`. -/
def op? : List Token → Option (TraceOp × List Token)
  | .word cs :: rest =>
    if cs = "DOWN".toList then some (.down, rest)
    else if cs = "UP".toList then some (.up, rest)
    else
      match rest with
      | .word v :: more =>
        if cs = "HOLD".toList then (number? v).map fun n => (.hold n, more)
        else if cs = "GAP".toList then (number? v).map fun n => (.gap n, more)
        else if cs = "WAIT".toList then
          match number? v, more with
          | some n, .word k :: after => (level? k).map fun b => (.wait n b, after)
          | _, _ => none
        else if cs = "RST".toList then (level? v).map fun b => (.rst b, more)
        else if cs = "RSTT".toList then (level? v).map fun b => (.rstt b, more)
        else if cs = "IDLE".toList then (level? v).map fun b => (.idle b, more)
        else if cs = "TICK".toList then (level? v).map fun b => (.tick b, more)
        else none
      | _ => none
  | _ => none

/-- The count of a line: `*N`, or 1 where there is none (R47). -/
def count? : List Token → Option (Nat × List Token)
  | .star :: .word v :: rest => (number? v).map fun n => (n, rest)
  | .star :: _ => none
  | rest => some (1, rest)

/-- Whether a line may end here: at a line end, a closing bracket or the end of the text. -/
def lineEnds : List Token → Bool
  | [] => true
  | .eol :: _ => true
  | .closing :: _ => true
  | _ => false

/-- The lines up to the end of the text or an unmatched closing bracket, and what is left. `fuel` bounds the nesting and
the number of lines together; the number of tokens and one more is always enough. -/
def lines? : Nat → List Token → Option (Trace × List Token)
  | 0, _ => none
  | _ + 1, [] => some (.nil, [])
  | fuel + 1, .eol :: rest => lines? fuel rest
  | _ + 1, .closing :: rest => some (.nil, .closing :: rest)
  | fuel + 1, .word cs :: rest =>
    if cs = "REP".toList then
      match rest with
      | .word v :: .opening :: more =>
        match number? v, lines? fuel more with
        | some n, some (body, .closing :: after) =>
          match count? after with
          | some (times, tail) =>
            if lineEnds tail then
              match lines? fuel tail with
              | some (others, left) => some (.rep n times body others, left)
              | none => none
            else none
          | none => none
        | _, _ => none
      | _ => none
    else
      match op? (.word cs :: rest) with
      | some (op, after) =>
        match count? after with
        | some (times, tail) =>
          if lineEnds tail then
            match lines? fuel tail with
            | some (others, left) => some (.line op times others, left)
            | none => none
          else none
        | none => none
      | none => none
  | _ + 1, _ => none

/-- A program from its text: the whole text is read and every count is legal, or there is no program. -/
def parse (text : String) : Option Trace :=
  let ts := tokens [] text.toList
  match lines? (ts.length + 1) ts with
  | some (p, []) => if p.wf then some p else none
  | _ => none

end Sys2Proof.TraceText
end

