-- ==== Sys2Proof/Tests/Slice0.lean ====
section
/-! SUPPORT. Small tests. Expected results of the `test_` theorems come from spec/95_test_vectors.md (named in the comments),
from the encodings of spec/30_encoding.md, and from spec/00_scope.md R7. A `witness_` theorem shows a concrete state and operands
that meet the hypotheses of one statement of Certificates/Slice0/Obligations.lean, or of its clauses at the ends of their
ranges. -/

open Sys2Proof
open Sys2Proof.Machine

namespace Sys2Proof.Tests

/-! ### Well-formedness: one ill-formed term for each check -/

theorem test_reference_wf : Config.reference.wf = true := by decide
theorem test_refuses_zero_tLow : Config.wf { Config.reference with tLow := 0 } = false := by decide
theorem test_refuses_tMid_at_tHigh : Config.wf { Config.reference with tMid := 16000 } = false := by decide
theorem test_refuses_tLong_below_tMid : Config.wf { Config.reference with tLong := 7999 } = false := by decide
theorem test_refuses_tLong_at_tHigh : Config.wf { Config.reference with tLong := 16000 } = false := by decide
theorem test_refuses_tMax_at_tHigh : Config.wf { Config.reference with tMax := 16000 } = false := by decide
theorem test_refuses_narrow_counter : Config.wf { Config.reference with ctrW := 15 } = false := by decide
theorem test_refuses_no_buffer : Config.wf { Config.reference with bufW := 0 } = false := by decide
theorem test_refuses_no_count : Config.wf { Config.reference with cntW := 0 } = false := by decide
theorem test_refuses_equal_patterns : Config.wf { Config.reference with patError := 0 } = false := by decide
theorem test_rise_and_fall_impossible : EventVector.possible 0b0011#4 = false := by decide
theorem test_gap_zero_ill_formed : Trace.wf (.line (.gap 0) 1 .nil) = false := by decide
theorem test_wait_zero_ill_formed : Trace.wf (.line (.wait 0 true) 1 .nil) = false := by decide
theorem test_count_zero_ill_formed : Trace.wf (.line .up 0 .nil) = false := by decide
theorem test_rep_count_zero_ill_formed : Trace.wf (.rep 2 0 .nil .nil) = false := by decide

/-! ### Decoding: the words of spec/30_encoding.md R42 written out -/

theorem test_decode_rst : decode 0b1000#4 = .ok .rst := by rfl
theorem test_decode_rst_with_tick_and_edge : decode 0b1110#4 = .ok .rst := by rfl
theorem test_decode_nop : decode 0b0000#4 = .ok .nop := by rfl
theorem test_decode_tick : decode 0b0100#4 = .ok .tick := by rfl
theorem test_decode_press : decode 0b0010#4 = .ok .press := by rfl
theorem test_decode_release : decode 0b0001#4 = .ok .release := by rfl
theorem test_decode_tickPress : decode 0b0110#4 = .ok .tickPress := by rfl
theorem test_decode_tickRelease : decode 0b0101#4 = .ok .tickRelease := by rfl
theorem test_decode_refuses_0011 : decode 0b0011#4 = .error .riseAndFall := by rfl
theorem test_decode_refuses_0111 : decode 0b0111#4 = .error .riseAndFall := by rfl
theorem test_number_above_four_bits : decodeNumber 16 = .error .notFourBits := by rfl
/-- R40: `110` is reset and tick with the key up. -/
theorem test_input_word : In3.ofWord 0b110#3 = ⟨true, true, false⟩ := by decide

/-! ### One step: vectors of spec/95_test_vectors.md -/

/-- A checkpoint of the spec: the registers in its order, the words as numbers. -/
structure View where
  timing : Bool
  pressed : Bool
  elapsed : Nat
  keyQ : Bool
  buf : Nat
  cnt : Nat
  disp : Pattern
  dispWe : Bool
  timerClr : Bool
  deriving DecidableEq, Repr

def regsOf (c : Config) (v : View) : Regs c :=
  { keyQ := v.keyQ, timing := v.timing, pressed := v.pressed, elapsed := BitVec.ofNat _ v.elapsed,
    buf := BitVec.ofNat _ v.buf, cnt := BitVec.ofNat _ v.cnt, disp := v.disp, dispWe := v.dispWe, timerClr := v.timerClr }

def viewOf {c : Config} (r : Regs c) : View :=
  ⟨r.timing, r.pressed, r.elapsed.toNat, r.keyQ, r.buf.toNat, r.cnt.toNat, r.disp, r.dispWe, r.timerClr⟩

/-- The machine of configuration `c` with these registers and these words to come. -/
def stateOf (c : Config) (v : View) (ws : List In3) : State := ⟨c, regsOf c v, ⟨false, false, false⟩, ws⟩

/-- The registers after one step with one input word. -/
def after (c : Config) (v : View) (w : InputWord) : Option View :=
  match step (stateOf c v [In3.ofWord w]) with
  | .next s => some (viewOf s.regs)
  | .fault _ => none
  | .refused _ => none

/-- X-1. -/
theorem test_rst_clears_all : after .reference ⟨true, true, 777, true, 0b00011010, 5, 0x79, true, true⟩ 0b101 =
    some ⟨false, false, 0, true, 0, 0, 0x00, false, false⟩ := by decide
/-- X-2: no TIMEOUT and no release in a reset step. -/
theorem test_rst_discards_tick_and_edge : after .reference ⟨true, true, 39999, true, 1, 2, 0x00, false, false⟩ 0b110 =
    some ⟨false, false, 0, false, 0, 0, 0x00, false, false⟩ := by decide
/-- N-1. -/
theorem test_nop_drops_dispWe : after .reference ⟨true, true, 100, true, 0, 0, 0x00, true, false⟩ 0b001 =
    some ⟨true, true, 100, true, 0, 0, 0x00, false, false⟩ := by decide
/-- T-7: without a tick there is no timeout. -/
theorem test_nop_never_times_out : after .reference ⟨true, true, 39999, true, 0, 0, 0x00, false, false⟩ 0b001 =
    some ⟨true, true, 39999, true, 0, 0, 0x00, false, false⟩ := by decide
/-- T-4. -/
theorem test_tick_times_out : after .reference ⟨true, true, 39999, true, 0, 0, 0x79, false, false⟩ 0b011 =
    some ⟨false, false, 0, true, 0, 0, 0x00, true, false⟩ := by decide
/-- T-5. -/
theorem test_tick_keeps_latch : after .latchKept ⟨true, true, 39999, true, 0, 0, 0x00, false, false⟩ 0b011 =
    some ⟨false, true, 0, true, 0, 0, 0x00, true, false⟩ := by decide
/-- PR-2. -/
theorem test_press_accepted : after .reference ⟨false, false, 9000, false, 0b101, 3, 0x00, false, false⟩ 0b001 =
    some ⟨true, true, 0, true, 0b101, 3, 0x00, false, true⟩ := by decide
/-- PR-3. -/
theorem test_press_rejected : after .mode41 ⟨true, false, 5000, false, 0, 0, 0x00, false, false⟩ 0b001 =
    some ⟨true, false, 5000, true, 0, 0, 0x00, false, false⟩ := by decide
/-- RL-10. -/
theorem test_release_long_dash : after .reference ⟨true, true, 14001, true, 0, 0, 0x00, false, false⟩ 0b000 =
    some ⟨false, false, 14001, false, 1, 1, 0x79, true, false⟩ := by decide
/-- B-4: the append assigns. -/
theorem test_release_dot_assigns : after .reference ⟨true, true, 2000, true, 0b11111111, 0, 0x00, false, false⟩ 0b000 =
    some ⟨false, false, 2000, false, 0b11111110, 1, 0x00, false, false⟩ := by decide
/-- TP-2. -/
theorem test_tickPress_after_timeout : after .mode41 ⟨true, false, 39999, false, 0, 0, 0x00, false, false⟩ 0b011 =
    some ⟨true, true, 0, true, 0, 0, 0x00, true, true⟩ := by decide
/-- TP-3. -/
theorem test_tickPress_rejected : after .mode41 ⟨true, false, 100, false, 0, 0, 0x00, false, false⟩ 0b011 =
    some ⟨true, false, 101, true, 0, 0, 0x00, false, false⟩ := by decide
/-- TR-2. -/
theorem test_tickRelease_counts_tick : after .reference ⟨true, true, 8000, true, 0, 0, 0x00, false, false⟩ 0b010 =
    some ⟨false, false, 8001, false, 1, 1, 0x00, false, false⟩ := by decide
/-- TR-4. -/
theorem test_tickRelease_after_timeout : after .latchKept ⟨true, true, 39999, true, 0, 0, 0x00, false, false⟩ 0b010 =
    some ⟨false, false, 0, false, 0, 0, 0x79, true, false⟩ := by decide

/-- spec/10_state.md section 5. -/
theorem test_reset_registers : viewOf State.reset.regs = ⟨false, false, 0, false, 0, 0, 0x00, false, false⟩ := by decide
/-- W-12: the tick counts of the reference configuration in microseconds. -/
theorem test_wall_clock : (Config.reference.micros 1200, Config.reference.micros 8000, Config.reference.micros 16000,
    Config.reference.micros 40000) = (30000, 200000, 400000, 1000000) := by decide

/-! ### Trace syntax -/

/-- The program of P6b, and the start of P1. -/
theorem test_parse_program : TraceText.parse "RST 0; IDLE 1; TICK 1*39998; TICK 0" =
    some (.line (.rst false) 1 (.line (.idle true) 1 (.line (.tick true) 39998 (.line (.tick false) 1 .nil)))) := by decide
theorem test_parse_refuses_level_2 : TraceText.parse "RST 2" = none := by decide
/-- R47: a key level is one character. -/
theorem test_parse_refuses_level_01 : TraceText.parse "RST 01" = none := by decide
/-- R48: `REP n` with a body, in tokens. -/
theorem test_parse_rep : TraceText.lines? 9 [.word "REP".toList, .word ['9'], .opening, .word "DOWN".toList, .eol,
    .word "GAP".toList, .word ['1', '0'], .closing] = some (.rep 9 1 (.line .down 1 (.line (.gap 10) 1 .nil)) .nil, []) := by decide
/-- R48: the words of `HOLD 2`. -/
theorem test_hold_words : (TraceOp.hold 2).words.map In3.word = [0b001#3, 0b011#3, 0b011#3, 0b000#3] := by decide

/-! ### Witnesses -/

/-- The small configuration of spec/95_test_vectors.md, its opening, at either setting of the mode bits. -/
def small (releaseStops timeoutClears : Bool) : Config where
  tLow := 3
  tMid := 6
  tHigh := 10
  tLong := 8
  tMax := 14
  ctrW := 4
  bufW := 2
  cntW := 2
  patBlank := 0x00
  patError := 0x79
  releaseStopsTiming := releaseStops
  timeoutClearsLatch := timeoutClears
  tickPeriodUs := 25

/-- Registers of a small machine: control bits, count of ticks, sampled key. -/
def smallRegs (rs tc t p : Bool) (e : Nat) (k : Bool) : Regs (small rs tc) :=
  regsOf _ ⟨t, p, e, k, 0, 0, 0x00, false, false⟩

theorem small_wf : ∀ rs tc, (small rs tc).wf = true := by decide

theorem witness_ConfigurationsTakenAndRefused :
    (State.resetWith { Config.reference with tLow := 0 } false).config.wf = false := by decide

theorem witness_OperationsDetermineWords :
    ∀ w ∈ [In3.idleWord true, In3.tickWord true, In3.tickWord false], w.rst = false := by decide

theorem witness_EventVectorBits : (In3.tickWord true).key = true ∧ (In3.tickWord true).key = (In3.idleWord true).key := by
  decide

theorem witness_DecodeAndEncodeAgree :
    (0b0110#4).getLsbD 3 = false ∧ decode 0b0110#4 = .ok .tickPress ∧ (0b1010#4).getLsbD 3 = true :=
  ⟨by decide, rfl, by decide⟩

theorem witness_PlacedWordIsRun : State.reset.config.wf = true := by decide

/-- For StepRunsDecodedInstruction, EveryStepCompletes and StepFollowsStepFunction. -/
theorem witness_StepRunsDecodedInstruction :
    let s := stateOf .reference ⟨false, false, 0, false, 0, 0, 0x00, false, false⟩ [In3.idleWord true]
    s.config.wf = true ∧ s.inputs = In3.idleWord true :: [] ∧ operationOf (In3.idleWord true) s.regs.keyQ = .ok .press :=
  ⟨by decide, rfl, rfl⟩

theorem witness_NoStepAfterLastWord : State.reset.config.wf = true ∧ State.reset.inputs = [] := by decide

theorem witness_RunFollowsStepFunction :
    (State.reset.withProgram (.line (.hold 2) 1 .nil)).config.wf = true := by decide

theorem witness_RstResult :
    let s := stateOf .reference ⟨true, true, 9, true, 1, 1, 0x79, true, false⟩ [In3.rsttWord true]
    s.config.wf = true ∧ s.inputs = In3.rsttWord true :: [] ∧ (In3.rsttWord true).rst = true := by decide

/-- The three clauses of TickEffect, the last two at `T_MAX - 2` and `T_MAX - 1`. -/
theorem witness_TickResult :
    (smallRegs true true false false 0 false).timing = false ∧
    ((smallRegs true true true true 12 true).timing = true ∧
      ((smallRegs true true true true 12 true).elapsed.toNat + 1) % 2 ^ (small true true).ctrW < (small true true).tMax) ∧
    ((smallRegs true true true true 13 true).timing = true ∧
      (small true true).tMax ≤ ((smallRegs true true true true 13 true).elapsed.toNat + 1) % 2 ^ (small true true).ctrW) := by
  decide

/-- The clauses of PressEffect: accepted, and rejected for either half of the guard. -/
theorem witness_PressResult :
    ((smallRegs false false false false 0 false).timing = false ∧ (smallRegs false false false false 0 false).pressed = false) ∧
    (smallRegs false false true false 5 false).timing = true ∧ (smallRegs false false false true 0 false).pressed = true := by
  decide

/-- The clauses of ReleaseEffect at the ends of their ranges: append at `T_LOW`, `T_MID`, `T_MID + 1`, `T_HIGH`, none just
outside; error just below `T_LOW` and just above `T_LONG`, none between. -/
theorem witness_ReleaseResult :
    (smallRegs true true true true 3 true).pressed = true ∧ (smallRegs true true false false 3 true).pressed = false ∧
    (Appends (small true true) 3 ∧ Appends (small true true) 6 ∧ Appends (small true true) 7 ∧ Appends (small true true) 10) ∧
    (¬ Appends (small true true) 2 ∧ ¬ Appends (small true true) 11) ∧
    (ShowsError (small true true) 2 ∧ ShowsError (small true true) 9) ∧
    (¬ ShowsError (small true true) 3 ∧ ¬ ShowsError (small true true) 8) := by decide

theorem witness_NonReleaseOperationsKeepBuffer : Instr.tick = .nop ∨ Instr.tick = .tick ∨ Instr.tick = .press ∨
    Instr.tick = .tickPress := by decide

theorem witness_PressStepTickNotCounted : State.reset.regs.timing = false ∧ State.reset.regs.pressed = false := by decide

theorem witness_TimeoutComesBeforeRelease :
    let s := stateOf (small true false) ⟨true, true, 13, true, 0, 0, 0x00, false, false⟩ []
    0 < s.config.tLow ∧ s.regs.timing = true ∧ s.regs.pressed = true ∧
      s.config.tMax ≤ (s.regs.elapsed.toNat + 1) % 2 ^ s.config.ctrW := by decide

theorem witness_TimeoutComesBeforePress :
    let s := stateOf (small false true) ⟨true, false, 13, false, 0, 0, 0x00, false, false⟩ []
    s.regs.timing = true ∧ s.regs.pressed = false ∧
      s.config.tMax ≤ (s.regs.elapsed.toNat + 1) % 2 ^ s.config.ctrW := by decide

/-- The clauses of ClassifyThresholds under a well-formed configuration: at `T_LONG + 1`, and over from `T_HIGH + 1`. -/
theorem witness_ClassifyThresholds :
    (small true true).wf = true ∧ (classify (small true true) 9#4).2 = true ∧ (classify (small true true) 8#4).2 = false ∧
    (classify (small true true) 11#4).1 = .over ∧ (classify (small true true) 10#4).1 = .dash := by decide

/-- The clauses of AppendResult: the last count that stores and the first that does not. -/
theorem witness_AppendResult :
    (regsOf (small true true) ⟨true, true, 5, true, 0, 1, 0x00, false, false⟩).cnt.toNat < (small true true).bufW ∧
    (small true true).bufW ≤ (regsOf (small true true) ⟨true, true, 5, true, 0, 2, 0x00, false, false⟩).cnt.toNat := by decide

/-- The last clause of AppendOverflow has an index it speaks of where `BUF_W > 2^CNT_W`. -/
theorem witness_AppendOverflow : 2 ^ Config.cntW { small true true with bufW := 6 } ≤ 5 := by decide

/-- For NoStepClearsBuffer, ControlFollowsTransitionTable and DisplayChangesOnlyWithStrobe: both values of `rst`, and steps
that write and do not write the display. -/
theorem witness_NoStepClearsBuffer :
    (In3.rstWord true).rst = true ∧ (In3.idleWord false).rst = false ∧
    (stepRule (In3.idleWord false) (smallRegs true true true true 2 true)).dispWe = true ∧
    (stepRule (In3.idleWord false) (smallRegs true true true true 3 true)).dispWe = false := by decide

/-- For CountIsNumberOfAppends and BufferHoldsAppendedSymbols: a run without a reset that appends a dash. -/
theorem witness_BufferHoldsAppendedSymbols :
    let ws := (TraceOp.hold 7).words
    (∀ w ∈ ws, w.rst = false) ∧
    (appendsOf (runOps (Regs.reset (small true true) false) ws)).length ≤ 2 ^ (small true true).cntW ∧
    appendsOf (runOps (Regs.reset (small true true) false) ws) = [true] := by decide

/-- The three clauses of DisabledEventsHaveNoEffect. -/
theorem witness_DisabledEventsHaveNoEffect :
    EventSource.tick.enabled (smallRegs true true false false 0 false) = false ∧
    (EventSource.pressEdge.present (In3.tickWord true) (smallRegs false true true false 4 false).keyQ = true ∧
      EventSource.pressEdge.enabled (beforeEdge (In3.tickWord true) (smallRegs false true true false 4 false)) = false) ∧
    (EventSource.releaseEdge.present (In3.idleWord false) (smallRegs true true false false 0 true).keyQ = true ∧
      EventSource.releaseEdge.enabled (beforeEdge (In3.idleWord false) (smallRegs true true false false 0 true)) = false) := by
  decide

/-- The clauses of ErrorClassesRecorded: noise at `T_LOW - 1`, long at `T_LONG + 1` and beyond `T_HIGH`, a timeout alone. -/
theorem witness_ErrorClassesRecorded :
    (small true true).wf = true ∧ (In3.idleWord false).rst = false ∧
    raisedClasses (In3.idleWord false) (smallRegs true true true true 2 true) = [.errNoise] ∧
    raisedClasses (In3.idleWord false) (smallRegs true true true true 3 true) = [] ∧
    raisedClasses (In3.idleWord false) (smallRegs true true true true 9 true) = [.errLong] ∧
    raisedClasses (In3.idleWord false) (smallRegs true true true true 11 true) = [.errLong] ∧
    raisedClasses (In3.tickWord true) (smallRegs true true true true 13 true) = [.evtTimeout] := by decide

/-- A held press one tick before its TIMEOUT meets the invariant. -/
theorem held_inv : (smallRegs true true true true 13 true).Inv := by
  refine ⟨?_, ?_, ?_, ?_, ?_, ?_⟩
  · unfold Regs.ElapsedBelowMax; decide
  · unfold Regs.ControlAllowed; decide
  · unfold Regs.TimedOutClear; decide
  · unfold Regs.DispKnown; decide
  · unfold Regs.PulsesApart; decide
  · unfold Regs.LatchedKeyDown; decide

/-- The last clause of PressResult. -/
theorem witness_PressResult_inv :
    let s := State.resetWith (small true true) false
    s.Inv ∧ operationOf (In3.idleWord true) s.regs.keyQ = .ok .press := by
  refine ⟨⟨by decide, ?_, ?_, ?_, ?_, ?_, ?_⟩, rfl⟩
  · unfold Regs.ElapsedBelowMax; decide
  · unfold Regs.ControlAllowed; decide
  · unfold Regs.TimedOutClear; decide
  · unfold Regs.DispKnown; decide
  · unfold Regs.PulsesApart; decide
  · unfold Regs.LatchedKeyDown; decide

/-- For StepKeepsInvariant and StepKeepsConfiguration: the step that times out. -/
theorem witness_StepKeepsInvariant :
    let s := stateOf (small true true) ⟨true, true, 13, true, 0, 0, 0x00, false, false⟩ [In3.tickWord true]
    s.Inv ∧ ∃ t, step s = .next t :=
  ⟨⟨by decide, held_inv⟩, ⟨_, rfl⟩⟩

/-- For StepKeepsHighBitsClear: a buffer wider than the count can reach. -/
theorem witness_StepKeepsHighBitsClear :
    let s := stateOf { small true true with bufW := 6 } ⟨true, true, 7, true, 0, 0, 0x00, false, false⟩ [In3.idleWord false]
    s.regs.HighBitsClear ∧ ∃ t, step s = .next t :=
  ⟨fun i _ => by simp [stateOf, regsOf], ⟨_, rfl⟩⟩

theorem witness_ResetMeetsInvariant : (small true true).wf = true := by decide

theorem witness_ReferenceModeControl :
    (smallRegs true true true true 13 true).Inv ∧ (small true true).releaseStopsTiming = true ∧
      (small true true).timeoutClearsLatch = true := ⟨held_inv, by decide⟩

theorem witness_ElapsedZeroUntilNextPress :
    ((In3.rstWord true).rst = true ∨ .timeout ∈ internalOps (In3.rstWord true) (smallRegs true true true true 13 true)) ∧
    .timeout ∈ internalOps (In3.tickWord true) (smallRegs true true true true 13 true) ∧
    .acceptedPress ∉ runOps (smallRegs true true true true 13 true) (In3.tickWord true :: [In3.tickWord true]) := by decide

theorem witness_ReleaseClassifiesTicksSincePress :
    let r := smallRegs true true false false 5 false
    let p := In3.tickWord true
    let held := [In3.tickWord true, In3.idleWord true, In3.tickWord true]
    let q := In3.tickWord false
    (small true true).wf = true ∧ .acceptedPress ∈ internalOps p r ∧ (∀ w ∈ held ++ [q], w.rst = false) ∧
      .timeout ∉ runOps (stepRule p r) (held ++ [q]) ∧ .acceptedRelease ∉ runOps (stepRule p r) held ∧
      .acceptedRelease ∈ internalOps q (runWords (stepRule p r) held) := by decide

/-- The longest hold that is classified: `T_MAX - 1` ticks. -/
theorem witness_HoldIsClassifiedByItsTicks :
    (small true true).wf = true ∧ (smallRegs true true false false 5 false).control = .idle ∧
      (smallRegs true true false false 5 false).keyQ = false ∧ 13 < (small true true).tMax := by decide

/-- The shortest hold that times out. -/
theorem witness_HeldKeyTimesOut :
    let r := smallRegs true true true true 3 true
    (small true true).wf = true ∧ r.timing = true ∧ r.keyQ = true ∧ r.elapsed.toNat < (small true true).tMax ∧
      (small true true).tMax ≤ r.elapsed.toNat + 11 ∧ (small true true).timeoutClearsLatch = true := by decide

theorem witness_RejectedPressLeavesNoTrace :
    let r := smallRegs false true true false 3 false
    let held := [In3.tickWord true, In3.tickWord true]
    r.control = .releasedTiming ∧ r.keyQ = false ∧ (∀ w ∈ held, w.rst = false ∧ w.key = true) ∧
      (In3.tickWord false).rst = false ∧ (In3.tickWord false).key = false ∧
      .timeout ∉ runOps r (held ++ [In3.tickWord false]) := by decide

theorem witness_PressAfterReleaseAccepted :
    (small true true).releaseStopsTiming = true ∧
      .acceptedRelease ∈ internalOps (In3.tickWord false) (smallRegs true true true true 4 true) ∧
      (In3.tickWord true).rst = false ∧ (In3.tickWord true).key = true := by decide

theorem witness_ErrorPatternPersists :
    let r := regsOf (small true true) ⟨false, false, 2, false, 0, 0, 0x79, true, false⟩
    r.disp = (small true true).patError ∧ (∀ w ∈ (TraceOp.hold 4).words, w.rst = false) ∧
      .timeout ∉ runOps r (TraceOp.hold 4).words := by decide

theorem witness_TimeoutOnlyWhileHeld :
    (smallRegs true true true true 13 true).Inv ∧ (small true true).releaseStopsTiming = true ∧
      .timeout ∈ internalOps (In3.tickWord true) (smallRegs true true true true 13 true) := ⟨held_inv, by decide⟩

theorem witness_SteadyIdleHasNoEffect :
    let r := smallRegs true true false false 7 true
    let ws := [In3.tickWord true, In3.idleWord true]
    r.timing = false ∧ ws ≠ [] ∧ (∀ w ∈ ws, w.rst = false ∧ w.key = r.keyQ) := by decide

theorem witness_ResetForgetsThePast : (In3.rstWord false).rst = true := by decide

theorem witness_BounceAtPress :
    (small false true).wf = true ∧ (smallRegs false true false false 5 false).control = .idle ∧
      (smallRegs false true false false 5 false).keyQ = false := by decide

theorem witness_HoldsAppendTheirSymbols :
    (small true false).wf = true ∧ (small true false).releaseStopsTiming = true ∧
      (smallRegs true false false false 5 false).control = .idle ∧ (smallRegs true false false false 5 false).keyQ = false := by
  decide

end Sys2Proof.Tests
end

/-! PROOFS. Which configurations the block takes (spec/00_scope.md R6, R7). -/

namespace Sys2Proof

/-- `Config.wf` is the six constraints of R7, in their order. -/
theorem Config.wf_iff (c : Config) :
    c.wf = true ↔
      (0 < c.tLow ∧ c.tLow < c.tMid ∧ c.tMid < c.tHigh) ∧ (c.tMid ≤ c.tLong ∧ c.tLong < c.tHigh) ∧ c.tHigh < c.tMax ∧
        c.tMax ≤ 2 ^ c.ctrW - 1 ∧ (1 ≤ c.bufW ∧ 1 ≤ c.cntW ∧ 1 ≤ c.ctrW) ∧ c.patError ≠ c.patBlank := by
  simp only [Config.wf, Config.thresholdsRise, Config.longInDashRange, Config.highBelowMax, Config.counterHoldsMax,
    Config.widthsPositive, Config.patternsDiffer, Bool.and_eq_true, decide_eq_true_eq, and_assoc]

/-- Among the constraints of R7 only item 2 depends on `T_LONG`; the defaults of R6 meet the other five. -/
theorem Config.referenceWith_wf_iff (tLong : Nat) :
    (Config.referenceWith tLong).wf = true ↔ 8000 ≤ tLong ∧ tLong < 16000 := by
  simp only [Config.wf_iff, Config.referenceWith]
  constructor
  · rintro ⟨-, hLong, -⟩
    exact hLong
  · intro hLong
    exact ⟨by decide, hLong, by decide, by decide, by decide, by decide⟩

namespace Machine

/-- The configuration is checked before anything else of the step. -/
theorem step_configNotWellFormed (s : State) (h : s.config.wf = false) : step s = .refused .configNotWellFormed := by
  have hf : fetch s = .error .configNotWellFormed := by simp [fetch, h]
  simp [step, hf]

/-- Every meaning answers a next state: none reads whether the configuration is well-formed. -/
theorem exec_completes (i : Instr) (s : State) : Completes (exec i s) := ⟨_, exec_eq i s⟩

end Machine

/-- Settles O1: the constraints by `Config.wf_iff`, the refusal by the first check of `fetch`, and totality by the equation of
`exec`. -/
theorem configurationsTakenAndRefused : Obligations.ConfigurationsTakenAndRefused :=
  ⟨Config.wf_iff, Machine.step_configNotWellFormed, Machine.exec_completes⟩

/-- Settles O2: the defaults and the two variants are the definitions' own values, and the range of `T_LONG` is
`Config.referenceWith_wf_iff`. -/
theorem referenceConfigurationDefaults : Obligations.ReferenceConfigurationDefaults :=
  ⟨fun _ => rfl, rfl, rfl, Config.referenceWith_wf_iff⟩

end Sys2Proof

/-! PROOFS. The frame of a step (spec/10_state.md R15, R28, R29): operations write registers only, and a step that answers a
next state is the step function of R54 on the registers. -/

namespace Sys2Proof

namespace Machine

/-- A step under a well-formed configuration with a word left is the step function of R54 on the registers. -/
theorem step_eq_stepRule (s : State) (w : In3) (rest : List In3) (hwf : s.config.wf = true) (hin : s.inputs = w :: rest) :
    step s = .next { s with regs := stepRule w s.regs, sample := w, inputs := rest } := by
  obtain ⟨i, hi⟩ := operationOf_total w s.regs.keyQ
  have hf : fetch s = .ok (i, s.takeWord w rest) := by simp [fetch, hwf, hin, hi]
  rw [← regsAfter_eq_stepRule w s.regs i hi]
  simp [step, hf, exec_eq, State.takeWord]

/-- Everything that holds when a step answers a next state. -/
theorem step_next {s t : State} (h : step s = .next t) :
    ∃ w rest, s.config.wf = true ∧ s.inputs = w :: rest ∧
      t = { s with regs := stepRule w s.regs, sample := w, inputs := rest } := by
  rcases fetch_cases s with ⟨-, hf⟩ | ⟨-, -, hf⟩ | ⟨w, rest, i, hwf, hin, -, -⟩
  · simp [step, hf] at h
  · simp [step, hf] at h
  · rw [step_eq_stepRule s w rest hwf hin] at h
    exact ⟨w, rest, hwf, hin, (Host.Outcome.next.inj h).symm⟩

end Machine

open Machine

/-- Settles O15: the equation of `exec` is an update of the registers alone. -/
theorem operationsWriteRegistersOnly : Obligations.OperationsWriteRegistersOnly :=
  fun i s => ⟨_, exec_eq i s⟩

/-- Settles O25: PULSE_CLEAR, the tick phase and the press phase each keep the buffer, and the press phase keeps the display
that PULSE_CLEAR left. -/
theorem nonReleaseOperationsKeepBuffer : Obligations.NonReleaseOperationsKeepBuffer := by
  intro i s hi
  refine ⟨_, exec_eq i s, ?_⟩
  obtain ⟨htBuf, htCnt, -, -⟩ := tickPhase_kept (pulseClear s.regs)
  rcases hi with rfl | rfl | rfl | rfl
  case inl => simp [regsAfter]
  case inr.inl => simp [regsAfter, htBuf, htCnt]
  case inr.inr.inl =>
    obtain ⟨hBuf, hCnt, hDisp, hWe⟩ := pressPhase_kept (pulseClear s.regs)
    simp [regsAfter, hBuf, hCnt, hDisp, hWe]
  case inr.inr.inr =>
    obtain ⟨hBuf, hCnt, -, -⟩ := pressPhase_kept (tickPhase (pulseClear s.regs))
    simp [regsAfter, hBuf, hCnt, htBuf, htCnt]

/-- Settles O39: each output is defined as its register. -/
theorem outputsCopyRegisters : Obligations.OutputsCopyRegisters :=
  fun _ _ => ⟨rfl, rfl, rfl, rfl, rfl, rfl⟩

/-- Settles O45: the step function of R54 is on the registers, and a step changes the sample and the words to come besides. -/
theorem stepKeepsConfiguration : Obligations.StepKeepsConfiguration := by
  intro s t h
  obtain ⟨w, rest, -, -, rfl⟩ := step_next h
  rfl

end Sys2Proof

/-! PROOFS. Which internal operations a step performs (spec/30_encoding.md R45), as conditions on its word and registers. -/

namespace Sys2Proof.Machine

variable {c : Config}

theorem classOf_eq_noise {v : BitVec c.ctrW} : classOf c v = .noise ↔ v.toNat < c.tLow := by
  rcases classOf_cases v with ⟨h, h1⟩ | ⟨h, h1, -⟩ | ⟨h, h1, -⟩ | ⟨h, h1, -⟩
  · simp [h, h1]
  all_goals simpa [h] using h1

theorem mem_tickOps {op : InternalOp} {w : Regs c} :
    op ∈ tickOps w ↔ tickTimesOut w = true ∧ (op = .timeout ∨ op = .showBlank) := by
  cases h : tickTimesOut w <;> simp [tickOps, h]

theorem mem_pressOps {op : InternalOp} {w : Regs c} :
    op ∈ pressOps w ↔ pressAccepted w = true ∧ op = .acceptedPress := by
  cases h : pressAccepted w <;> simp [pressOps, h]

theorem mem_classOps {op : InternalOp} {cls : SymbolClass} :
    op ∈ classOps cls ↔ (cls = .noise ∧ op = .showError) ∨ ∃ b, cls.appendOperand = some b ∧ op = .append b := by
  cases cls <;> simp [classOps, SymbolClass.appendOperand]

theorem mem_releaseOps {op : InternalOp} {w : Regs c} :
    op ∈ releaseOps w ↔ w.pressed = true ∧
      (op = .acceptedRelease ∨ op = .classify ∨ op ∈ classOps (classOf c w.elapsed) ∨
        (longOf c w.elapsed = true ∧ op = .showError)) := by
  cases hp : w.pressed
  · simp [releaseOps_rejected w hp]
  · cases hl : longOf c w.elapsed <;> simp [releaseOps_accepted w hp, hl]

/-- The operations of a step are those of the tick phase, when the word has a tick, and those of the phase of its edge. -/
theorem mem_internalOps {op : InternalOp} {w : In3} {r : Regs c} :
    op ∈ internalOps w r ↔ w.rst = false ∧
      ((w.tick = true ∧ op ∈ tickOps r) ∨
        (w.key = true ∧ r.keyQ = false ∧ op ∈ pressOps (beforeEdge w r)) ∨
        (w.key = false ∧ r.keyQ = true ∧ op ∈ releaseOps (beforeEdge w r))) := by
  cases hr : w.rst
  · rcases stepRule_cases w r hr with ⟨hk, hq, -, h⟩ | ⟨hk, hq, -, h⟩ | ⟨hk, -, h⟩
    · cases ht : w.tick <;> simp [h, ht, hk, hq]
    · cases ht : w.tick <;> simp [h, ht, hk, hq]
    · cases ht : w.tick <;> cases hq : r.keyQ <;> simp [h, ht, hk, hq]
  · simp [(stepRule_rst w r hr).2]

theorem timeout_mem_internalOps {w : In3} {r : Regs c} :
    .timeout ∈ internalOps w r ↔ w.rst = false ∧ w.tick = true ∧ tickTimesOut r = true := by
  simp [mem_internalOps, mem_tickOps, mem_pressOps, mem_releaseOps, mem_classOps]

theorem showBlank_mem_internalOps {w : In3} {r : Regs c} :
    .showBlank ∈ internalOps w r ↔ w.rst = false ∧ w.tick = true ∧ tickTimesOut r = true := by
  simp [mem_internalOps, mem_tickOps, mem_pressOps, mem_releaseOps, mem_classOps]

theorem acceptedPress_mem_internalOps {w : In3} {r : Regs c} :
    .acceptedPress ∈ internalOps w r ↔
      w.rst = false ∧ w.key = true ∧ r.keyQ = false ∧ pressAccepted (beforeEdge w r) = true := by
  simp [mem_internalOps, mem_tickOps, mem_pressOps, mem_releaseOps, mem_classOps]

theorem showError_mem_internalOps {w : In3} {r : Regs c} :
    .showError ∈ internalOps w r ↔
      w.rst = false ∧ w.key = false ∧ r.keyQ = true ∧ (beforeEdge w r).pressed = true ∧
        ShowsError c (beforeEdge w r).elapsed.toNat := by
  simp [mem_internalOps, mem_tickOps, mem_pressOps, mem_releaseOps, mem_classOps, classOf_eq_noise, ShowsError]

end Sys2Proof.Machine

/-! PROOFS. The pulses and the display over a step (spec/10_state.md R23, R24, R25). -/

namespace Sys2Proof

namespace Machine

variable {c : Config}

/-- What the phases before the edge leave in the registers a tick phase does not write, and in the pulse they have cleared. -/
theorem beforeEdge_kept (w : In3) (r : Regs c) :
    (beforeEdge w r).buf = r.buf ∧ (beforeEdge w r).cnt = r.cnt ∧ (beforeEdge w r).keyQ = r.keyQ ∧
      (beforeEdge w r).timerClr = false := by
  rcases beforeEdge_cases w r with ⟨h, -⟩ | ⟨-, -, -, h, -⟩ | ⟨-, -, -, h, -⟩ <;> simp [h]

/-- Before the edge phase only a TIMEOUT has marked the display. -/
theorem beforeEdge_dispWe (w : In3) (r : Regs c) :
    (beforeEdge w r).dispWe = true ↔ w.tick = true ∧ tickTimesOut r = true := by
  rcases beforeEdge_cases w r with ⟨h, hnt, -⟩ | ⟨-, -, hlt, h, -⟩ | ⟨ht, hti, hle, h, -⟩
  · rcases hnt with ht | hti
    · simp [h, ht]
    · simp [h, tickTimesOut_eq_true, hti]
  · simp [h, tickTimesOut_eq_true, hlt]
  · simp [h, ht, tickTimesOut_eq_true, hti, hle]

theorem pressPhase_timerClr (w : Regs c) :
    (pressPhase w).timerClr = true ↔ pressAccepted w = true ∨ w.timerClr = true := by
  rcases pressPhase_cases w with ⟨ht, hp, h⟩ | ⟨hor, h⟩
  · simp [h, ht, hp]
  · have hna : ¬ (w.timing = false ∧ w.pressed = false) := by
      rintro ⟨ht, hp⟩
      simp [ht, hp] at hor
    simp [h, pressAccepted_eq_true, hna]

/-- A release phase never writes the press pulse. -/
theorem releasePhase_timerClr (w : Regs c) : (releasePhase w).timerClr = w.timerClr := by
  have he := releasePhase_effect w
  cases hp : w.pressed
  · rw [he.rejected hp]
  · exact (he.kept hp).2.2

theorem releasePhase_dispWe (w : Regs c) :
    (releasePhase w).dispWe = true ↔ w.dispWe = true ∨ (w.pressed = true ∧ ShowsError c w.elapsed.toNat) := by
  have he := releasePhase_effect w
  cases hp : w.pressed
  · simp [he.rejected hp]
  · by_cases hs : ShowsError c w.elapsed.toNat
    · simp [(he.shown hp hs).2, hs]
    · simp [(he.unshown hp hs).2, hs]

/-- The press pulse after a step is 1 exactly when the step accepted a press (R25). -/
theorem stepRule_timerClr (w : In3) (r : Regs c) :
    (stepRule w r).timerClr = true ↔ .acceptedPress ∈ internalOps w r := by
  obtain ⟨-, -, -, hclr⟩ := beforeEdge_kept w r
  rw [acceptedPress_mem_internalOps]
  cases hr : w.rst
  · rcases stepRule_cases w r hr with ⟨hk, hq, h, -⟩ | ⟨hk, hq, h, -⟩ | ⟨hk, h, -⟩
    · simp [h, hk, hq, pressPhase_timerClr, hclr]
    · simp [h, hk, releasePhase_timerClr, hclr]
    · cases hq : r.keyQ <;> simp [h, hk, hq, hclr]
  · simp [(stepRule_rst w r hr).1]

/-- The display mark after a step is 1 exactly when the step showed a pattern (R24). -/
theorem stepRule_dispWe (w : In3) (r : Regs c) :
    (stepRule w r).dispWe = true ↔ .showBlank ∈ internalOps w r ∨ .showError ∈ internalOps w r := by
  rw [showBlank_mem_internalOps, showError_mem_internalOps]
  cases hr : w.rst
  · rcases stepRule_cases w r hr with ⟨hk, hq, h, -⟩ | ⟨hk, hq, h, -⟩ | ⟨hk, h, -⟩
    · simp [h, hk, (pressPhase_kept (beforeEdge w r)).2.2.2, beforeEdge_dispWe]
    · simp [h, hk, hq, releasePhase_dispWe, beforeEdge_dispWe]
    · cases hq : r.keyQ <;> simp [h, hk, hq, beforeEdge_dispWe]
  · simp [(stepRule_rst w r hr).1]

/-- The display of `w` is as `p` unless `w` marks a write, and then it is one of the two patterns. -/
structure Regs.DispMarked (p : Pattern) (w : Regs c) : Prop where
  unmarked : w.dispWe = false → w.disp = p
  marked   : w.dispWe = true → w.DispKnown

/-- Equal display registers are marked alike. -/
theorem Regs.DispMarked.congr {p : Pattern} {w w' : Regs c} (h : w.DispMarked p) (hd : w'.disp = w.disp)
    (hw : w'.dispWe = w.dispWe) : w'.DispMarked p := by
  refine ⟨fun h0 => ?_, fun h1 => ?_⟩
  · exact hd.trans (h.unmarked (hw ▸ h0))
  · simpa [Regs.DispKnown, hd] using h.marked (hw ▸ h1)

theorem beforeEdge_dispMarked (w : In3) (r : Regs c) : (beforeEdge w r).DispMarked r.disp := by
  rcases beforeEdge_cases w r with ⟨h, -⟩ | ⟨-, -, -, h, -⟩ | ⟨-, -, -, h, -⟩
  · exact ⟨by simp [h], by simp [h]⟩
  · exact ⟨by simp [h], by simp [h]⟩
  · exact ⟨by simp [h], fun _ => .inl (by simp [h])⟩

theorem releasePhase_dispMarked {p : Pattern} {w : Regs c} (h : w.DispMarked p) : (releasePhase w).DispMarked p := by
  have he := releasePhase_effect w
  cases hp : w.pressed
  · rwa [he.rejected hp]
  · by_cases hs : ShowsError c w.elapsed.toNat
    · obtain ⟨hd, hw⟩ := he.shown hp hs
      exact ⟨by simp [hw], fun _ => .inr hd⟩
    · obtain ⟨hd, hw⟩ := he.unshown hp hs
      exact h.congr hd hw

/-- Outside a reset the display changes only with its mark, and to one of the two patterns (R23). -/
theorem stepRule_dispMarked (w : In3) (r : Regs c) (hr : w.rst = false) : (stepRule w r).DispMarked r.disp := by
  have hb := beforeEdge_dispMarked w r
  rcases stepRule_cases w r hr with ⟨-, -, h, -⟩ | ⟨-, -, h, -⟩ | ⟨-, h, -⟩ <;> rw [h]
  · obtain ⟨-, -, hd, hw⟩ := pressPhase_kept (beforeEdge w r)
    exact hb.congr hd hw
  · exact (releasePhase_dispMarked hb).congr rfl rfl
  · exact hb.congr rfl rfl

end Machine

open Machine

/-- Settles O37: each pulse by its own lemma, the display mark through the shows of the tick and release phases. -/
theorem pulsesMarkTheirCauses : Obligations.PulsesMarkTheirCauses :=
  fun _ w r => ⟨stepRule_dispWe w r, stepRule_timerClr w r⟩

/-- Settles O38: PULSE_CLEAR drops the mark, and every later write of the display sets it. -/
theorem displayChangesOnlyWithStrobe : Obligations.DisplayChangesOnlyWithStrobe := by
  intro c w r hr
  obtain ⟨hUnmarked, hMarked⟩ := stepRule_dispMarked w r hr
  exact ⟨hUnmarked, hMarked⟩

end Sys2Proof

/-! PROOFS. The invariant of spec/10_state.md R30 and R26: a reset meets it and every step keeps it. -/

namespace Sys2Proof

namespace Machine

variable {c : Config}

theorem control_eq_releasedTiming {r : Regs c} : r.control = .releasedTiming ↔ r.timing = true ∧ r.pressed = false := by
  unfold Regs.control
  cases r.timing <;> cases r.pressed <;> simp [controlOf]

theorem control_eq_timedOutHeld {r : Regs c} : r.control = .timedOutHeld ↔ r.timing = false ∧ r.pressed = true := by
  unfold Regs.control
  cases r.timing <;> cases r.pressed <;> simp [controlOf]

theorem timing_eq_pressed_iff {r : Regs c} : r.timing = r.pressed ↔ r.control = .idle ∨ r.control = .timing := by
  unfold Regs.control
  cases r.timing <;> cases r.pressed <;> simp [controlOf]

/-- The thresholds of spec/00_scope.md R7 rise from above 0 to below `T_MAX`. -/
theorem tMax_pos_of_wf (hwf : c.wf = true) : 0 < c.tMax := by
  obtain ⟨hRise, -, hMax, -⟩ := c.wf_iff.mp hwf
  omega

/-- The part of the invariant that every phase of a step keeps: what R30 and R26 say of the control bits and the counter. -/
structure Regs.TimerInv (r : Regs c) : Prop where
  elapsedBelowMax : r.ElapsedBelowMax
  controlAllowed  : r.ControlAllowed
  timedOutClear   : r.TimedOutClear

theorem Regs.Inv.timerInv {r : Regs c} (h : r.Inv) : r.TimerInv :=
  ⟨h.elapsedBelowMax, h.controlAllowed, h.timedOutClear⟩

/-- `TimerInv` in terms of the bits and the counter. -/
theorem timerInv_iff {r : Regs c} :
    r.TimerInv ↔ r.elapsed.toNat < c.tMax ∧
      (r.timing = true → r.pressed = false → c.releaseStopsTiming = false) ∧
      (r.timing = false → r.pressed = true → c.timeoutClearsLatch = false ∧ r.elapsed = 0) := by
  constructor
  · rintro ⟨hlt, ⟨hRel, hHeld⟩, hClear⟩
    refine ⟨hlt, fun ht hp => hRel (control_eq_releasedTiming.mpr ⟨ht, hp⟩), fun ht hp => ?_⟩
    have hc := control_eq_timedOutHeld.mpr ⟨ht, hp⟩
    exact ⟨hHeld hc, hClear hc⟩
  · rintro ⟨hlt, hRel, hHeld⟩
    have hHeld' : r.control = .timedOutHeld → c.timeoutClearsLatch = false ∧ r.elapsed = 0 :=
      fun hc => (control_eq_timedOutHeld.mp hc).elim hHeld
    exact ⟨hlt, ⟨fun hc => (control_eq_releasedTiming.mp hc).elim hRel, fun hc => (hHeld' hc).1⟩, fun hc => (hHeld' hc).2⟩

/-- A tick counted below `T_MAX` keeps the bits; a TIMEOUT clears the counter and leaves a latch only where R26 allows it. -/
theorem beforeEdge_timerInv {w : In3} {r : Regs c} (hwf : c.wf = true) (h : r.TimerInv) : (beforeEdge w r).TimerInv := by
  rw [timerInv_iff] at h ⊢
  obtain ⟨hlt, hRel, hHeld⟩ := h
  rcases beforeEdge_cases w r with ⟨hb, -⟩ | ⟨-, ht, hcount, hb, -⟩ | ⟨-, -, -, hb, -⟩
  · rw [hb]
    exact ⟨hlt, hRel, hHeld⟩
  · rw [hb]
    exact ⟨by simpa [BitVec.toNat_add] using hcount, hRel, by simp [ht]⟩
  · rw [hb]
    refine ⟨by simpa using tMax_pos_of_wf hwf, by simp, fun _ hp => ⟨?_, rfl⟩⟩
    simp only [timeout_pressed, pressedAfterTimeout_eq, Bool.and_eq_true, Bool.not_eq_true'] at hp
    exact hp.1

/-- An accepted press starts a count from 0 in TIMING. -/
theorem pressPhase_timerInv {w : Regs c} (hwf : c.wf = true) (h : w.TimerInv) : (pressPhase w).TimerInv := by
  rcases pressPhase_cases w with ⟨-, -, hp⟩ | ⟨-, hp⟩
  · rw [hp, timerInv_iff]
    exact ⟨by simpa using tMax_pos_of_wf hwf, by simp, by simp⟩
  · rwa [hp]

/-- An accepted release keeps the counter and unlatches the press; `timing` survives it only in the mode R26 allows. -/
theorem releasePhase_timerInv {w : Regs c} (h : w.TimerInv) : (releasePhase w).TimerInv := by
  have he := releasePhase_effect w
  cases hp : w.pressed
  · rwa [he.rejected hp]
  · obtain ⟨hpr, hti⟩ := he.control hp
    obtain ⟨hel, -, -⟩ := he.kept hp
    rw [timerInv_iff, hpr, hti, hel]
    exact ⟨h.elapsedBelowMax, by simp +contextual, by simp⟩

theorem sampleKey_timerInv {k : Bool} {w : Regs c} (h : w.TimerInv) : (sampleKey k w).TimerInv :=
  ⟨h.elapsedBelowMax, h.controlAllowed, h.timedOutClear⟩

theorem reset_inv (hwf : c.wf = true) (k : Bool) : (Regs.reset c k).Inv where
  elapsedBelowMax := by simpa [Regs.ElapsedBelowMax] using tMax_pos_of_wf hwf
  controlAllowed := by simp [Regs.ControlAllowed, control_eq_releasedTiming, control_eq_timedOutHeld]
  timedOutClear := fun _ => rfl
  dispKnown := .inl rfl
  pulsesApart := by simp [Regs.PulsesApart]
  latchedKeyDown := by simp [Regs.LatchedKeyDown]

section Step

variable {w : In3} {r : Regs c}

theorem stepRule_timerInv (hwf : c.wf = true) (hr : w.rst = false) (h : r.TimerInv) : (stepRule w r).TimerInv := by
  have hb : (beforeEdge w r).TimerInv := beforeEdge_timerInv hwf h
  rcases stepRule_cases w r hr with ⟨-, -, he, -⟩ | ⟨-, -, he, -⟩ | ⟨-, he, -⟩ <;> rw [he]
  · exact sampleKey_timerInv (pressPhase_timerInv hwf hb)
  · exact sampleKey_timerInv (releasePhase_timerInv hb)
  · exact sampleKey_timerInv hb

/-- A write is one of the two patterns; without one the display stays. -/
theorem stepRule_dispKnown (hr : w.rst = false) (h : r.DispKnown) : (stepRule w r).DispKnown := by
  obtain ⟨hUnmarked, hMarked⟩ := stepRule_dispMarked w r hr
  cases hw : (stepRule w r).dispWe
  · simpa [Regs.DispKnown, hUnmarked hw] using h
  · exact hMarked hw

/-- A step that accepts a press meets a key that was up, so no latch, so with `RELEASE_STOPS_TIMING = 1` no timing: then no
TIMEOUT precedes the press, and a press edge shows nothing else. -/
theorem stepRule_pulsesApart (h : r.Inv) : (stepRule w r).PulsesApart := by
  rintro hrst ⟨hdisp, hclr⟩
  obtain ⟨-, hkey, hup, -⟩ := acceptedPress_mem_internalOps.mp ((stepRule_timerClr w r).mp hclr)
  rcases (stepRule_dispWe w r).mp hdisp with hblank | herror
  · obtain ⟨-, -, hout⟩ := showBlank_mem_internalOps.mp hblank
    have hti : r.timing = true := (tickTimesOut_eq_true.mp hout).1
    have hpr : r.pressed = false := by
      by_contra hlatched
      simp [h.latchedKeyDown (by simpa using hlatched)] at hup
    have hmode := h.controlAllowed.1 (control_eq_releasedTiming.mpr ⟨hti, hpr⟩)
    simp [hrst] at hmode
  · obtain ⟨-, hkey', -⟩ := showError_mem_internalOps.mp herror
    simp [hkey] at hkey'

/-- A tick phase never latches a press. -/
theorem beforeEdge_pressed (hp : (beforeEdge w r).pressed = true) : r.pressed = true := by
  rcases beforeEdge_cases w r with ⟨h, -⟩ | ⟨-, -, -, h, -⟩ | ⟨-, -, -, h, -⟩ <;> rw [h] at hp
  · exact hp
  · exact hp
  · simp only [timeout_pressed, pressedAfterTimeout_eq, Bool.and_eq_true] at hp
    exact hp.2

/-- After a release phase no press is latched, whether it was accepted or there was none to release. -/
theorem releasePhase_pressed (v : Regs c) : (releasePhase v).pressed = false := by
  have he := releasePhase_effect v
  cases hp : v.pressed
  · rw [he.rejected hp, hp]
  · exact (he.control hp).1

theorem stepRule_latchedKeyDown (hr : w.rst = false) (h : r.LatchedKeyDown) : (stepRule w r).LatchedKeyDown := by
  intro hp
  rcases stepRule_cases w r hr with ⟨-, -, he, -⟩ | ⟨-, -, he, -⟩ | ⟨-, he, -⟩ <;> rw [he] at hp ⊢
  · rfl
  · simp [releasePhase_pressed] at hp
  · exact h (beforeEdge_pressed hp)

/-- The step function keeps the invariant. -/
theorem stepRule_inv (hwf : c.wf = true) (h : r.Inv) : (stepRule w r).Inv := by
  cases hr : w.rst
  · obtain ⟨hElapsed, hControl, hClear⟩ := stepRule_timerInv hwf hr h.timerInv
    exact
      { elapsedBelowMax := hElapsed, controlAllowed := hControl, timedOutClear := hClear
        dispKnown := stepRule_dispKnown hr h.dispKnown
        pulsesApart := stepRule_pulsesApart h
        latchedKeyDown := stepRule_latchedKeyDown hr h.latchedKeyDown }
  · rw [(stepRule_rst w r hr).1]
    exact reset_inv hwf w.key

end Step

theorem resetWith_inv (hwf : c.wf = true) (k : Bool) : (State.resetWith c k).Inv := ⟨hwf, reset_inv hwf k⟩

end Machine

open Machine

/-- Settles O43: a next state is the step function's, which keeps the invariant of the registers and cannot touch the
configuration. -/
theorem stepKeepsInvariant : Obligations.StepKeepsInvariant := by
  intro s t ⟨hwf, hregs⟩ h
  obtain ⟨w, rest, -, -, rfl⟩ := step_next h
  exact ⟨hwf, stepRule_inv hwf hregs⟩

/-- Settles O42: the reset registers meet every clause, with `0 < T_MAX` from the thresholds of R7, and the reset buffer is 0. -/
theorem resetMeetsInvariant : Obligations.ResetMeetsInvariant :=
  ⟨resetWith_inv (by decide) false, fun _ k hwf => ⟨resetWith_inv hwf k, fun _ _ => BitVec.getLsbD_zero⟩⟩

/-- Settles O46: R26 leaves RELEASED_TIMING and TIMED_OUT_HELD no place when both mode bits are 1. -/
theorem referenceModeControl : Obligations.ReferenceModeControl := by
  intro c r h hRel hOut
  obtain ⟨hReleased, hHeld⟩ := h.controlAllowed
  have hcontrol : r.control = .idle ∨ r.control = .timing := by
    cases hc : r.control with
    | idle => exact .inl rfl
    | timing => exact .inr rfl
    | releasedTiming => exact absurd (hReleased hc) (by simp [hRel])
    | timedOutHeld => exact absurd (hHeld hc) (by simp [hOut])
  exact ⟨timing_eq_pressed_iff.mpr hcontrol, hcontrol⟩

end Sys2Proof

/-! PROOFS. The timer between a TIMEOUT or a reset and the next accepted press (spec/10_state.md R30 item 2). -/

namespace Sys2Proof

namespace Machine

variable {c : Config}

/-- Not timing, with the counter at 0. -/
def Regs.Stopped (r : Regs c) : Prop := r.timing = false ∧ r.elapsed = 0

/-- A release phase starts no timing and keeps the counter. -/
theorem releasePhase_stopped {w : Regs c} (h : w.Stopped) : (releasePhase w).Stopped := by
  have he := releasePhase_effect w
  cases hp : w.pressed
  · rwa [he.rejected hp]
  · obtain ⟨ht, hz⟩ := h
    exact ⟨by simp [(he.control hp).2, ht], (he.kept hp).1.trans hz⟩

/-- Only an accepted press starts the timer in the edge phase. -/
theorem stepRule_stopped_of_beforeEdge {w : In3} {r : Regs c} (hr : w.rst = false) (h : (beforeEdge w r).Stopped)
    (hno : .acceptedPress ∉ internalOps w r) : (stepRule w r).Stopped := by
  rcases stepRule_cases w r hr with ⟨hk, hq, he, -⟩ | ⟨-, -, he, -⟩ | ⟨-, he, -⟩ <;> rw [he]
  · rcases pressPhase_cases (beforeEdge w r) with ⟨ht, hp, -⟩ | ⟨-, hkeep⟩
    · exact absurd (acceptedPress_mem_internalOps.mpr ⟨hr, hk, hq, pressAccepted_eq_true.mpr ⟨ht, hp⟩⟩) hno
    · rwa [hkeep]
  · exact releasePhase_stopped h
  · exact h

/-- A tick is ignored while not timing, so a stopped timer stays stopped until a press is accepted. -/
theorem stepRule_stopped {w : In3} {r : Regs c} (h : r.Stopped) (hno : .acceptedPress ∉ internalOps w r) :
    (stepRule w r).Stopped := by
  cases hr : w.rst
  · refine stepRule_stopped_of_beforeEdge hr ?_ hno
    rcases beforeEdge_cases w r with ⟨hb, -⟩ | ⟨-, ht, -⟩ | ⟨-, ht, -⟩
    · rwa [hb]
    · simp [h.1] at ht
    · simp [h.1] at ht
  · rw [(stepRule_rst w r hr).1]
    exact ⟨rfl, rfl⟩

/-- A step that resets or times out stops the timer, unless it accepts a press afterwards. -/
theorem stepRule_stopped_of_stop {w : In3} {r : Regs c} (hstop : w.rst = true ∨ .timeout ∈ internalOps w r)
    (hno : .acceptedPress ∉ internalOps w r) : (stepRule w r).Stopped := by
  rcases hstop with hr | hout
  · rw [(stepRule_rst w r hr).1]
    exact ⟨rfl, rfl⟩
  · obtain ⟨hr, ht, hout⟩ := timeout_mem_internalOps.mp hout
    obtain ⟨hti, hle⟩ := tickTimesOut_eq_true.mp hout
    refine stepRule_stopped_of_beforeEdge hr ?_ hno
    rcases beforeEdge_cases w r with ⟨-, hnt, -⟩ | ⟨-, -, hlt, -⟩ | ⟨-, -, -, hb, -⟩
    · simp [ht, hti] at hnt
    · omega
    · rw [hb]
      exact ⟨rfl, rfl⟩

theorem runWords_stopped {r : Regs c} (ws : List In3) (h : r.Stopped) (hno : .acceptedPress ∉ runOps r ws) :
    (runWords r ws).Stopped := by
  induction ws generalizing r with
  | nil => exact h
  | cons w ws ih =>
    rw [runOps, List.mem_append, not_or] at hno
    exact ih (stepRule_stopped h hno.1) hno.2

end Machine

open Machine

/-- Settles O47: the first step stops the timer, and no later step starts it without accepting a press. -/
theorem elapsedZeroUntilNextPress : Obligations.ElapsedZeroUntilNextPress := by
  intro c r w ws hstop hno
  rw [runOps, List.mem_append, not_or] at hno
  exact runWords_stopped ws (stepRule_stopped_of_stop hstop hno.1) hno.2

end Sys2Proof

/-! PROOFS. The symbol buffer over a run (spec/10_state.md R21, R22, spec/20_memory.md R32): what a run leaves in it is what its
APPENDs, one after the other, would leave. -/

namespace Sys2Proof

namespace Machine

variable {c : Config}

/-- The symbol buffer as a whole: its bits and its count (R21, R22). -/
def Regs.symbols (r : Regs c) : BitVec c.bufW × BitVec c.cntW := (r.buf, r.cnt)

/-- APPENDs of a list of operands, in order. -/
def appendAll (bs : List Bool) (r : Regs c) : Regs c := bs.foldl (fun r b => append b r) r

theorem appendAll_append (xs ys : List Bool) (r : Regs c) :
    appendAll (xs ++ ys) r = appendAll ys (appendAll xs r) :=
  List.foldl_append

theorem appendAll_concat (bs : List Bool) (b : Bool) (r : Regs c) :
    appendAll (bs ++ [b]) r = append b (appendAll bs r) :=
  appendAll_append bs [b] r

/-- What APPENDs leave in the symbol buffer depends on nothing else of the registers. -/
theorem appendAll_symbols_congr (bs : List Bool) {r r' : Regs c} (h : r.symbols = r'.symbols) :
    (appendAll bs r).symbols = (appendAll bs r').symbols := by
  induction bs generalizing r r' with
  | nil => exact h
  | cons b bs ih =>
    obtain ⟨hbuf, hcnt⟩ := Prod.mk.inj h
    exact ih (by simp [Regs.symbols, append, hbuf, hcnt])

theorem appendAll_cnt (bs : List Bool) (r : Regs c) :
    (appendAll bs r).cnt.toNat = (r.cnt.toNat + bs.length) % 2 ^ c.cntW := by
  induction bs using List.reverseRecOn with
  | nil => simp [appendAll, Nat.mod_eq_of_lt r.cnt.isLt]
  | append_singleton bs b ih =>
    simp [appendAll_concat, BitVec.toNat_add, ih, Nat.add_assoc]

/-- APPEND number `i` after a reset writes bit `i`, as long as the count has not wrapped. -/
theorem appendAll_reset_getLsbD (k : Bool) (bs : List Bool) (hlen : bs.length ≤ 2 ^ c.cntW) (i : Nat) (hi : i < c.bufW) :
    (appendAll bs (Regs.reset c k)).buf.getLsbD i = bs.getD i false := by
  induction bs using List.reverseRecOn with
  | nil => simp [appendAll]
  | append_singleton bs b ih =>
    rw [List.length_append, List.length_singleton] at hlen
    have hcnt : (appendAll bs (Regs.reset c k)).cnt.toNat = bs.length := by
      simpa [appendAll_cnt] using Nat.mod_eq_of_lt (by omega : bs.length < 2 ^ c.cntW)
    calc (appendAll (bs ++ [b]) (Regs.reset c k)).buf.getLsbD i
        = (append b (appendAll bs (Regs.reset c k))).buf.getLsbD i := by rw [appendAll_concat]
      _ = if i = bs.length then b else bs.getD i false := by rw [append_getLsbD b _ i hi, hcnt, ih (by omega)]
      _ = (bs ++ [b]).getD i false := by
        rcases Nat.lt_trichotomy i bs.length with hlt | rfl | hgt
        · simp [List.getElem?_append_left hlt, Nat.ne_of_lt hlt]
        · simp
        · simp [Nat.ne_of_gt hgt, List.getElem?_eq_none, Nat.le_of_lt hgt, Nat.succ_le_of_lt hgt]

theorem appendsOf_tickOps (w : Regs c) : appendsOf (tickOps w) = [] := by
  unfold tickOps
  split <;> rfl

theorem appendsOf_pressOps (w : Regs c) : appendsOf (pressOps w) = [] := by
  unfold pressOps
  split <;> rfl

theorem beforeEdge_symbols (w : In3) (r : Regs c) : (beforeEdge w r).symbols = r.symbols := by
  obtain ⟨hbuf, hcnt, -⟩ := beforeEdge_kept w r
  simp [Regs.symbols, hbuf, hcnt]

theorem pressPhase_symbols (w : Regs c) : (pressPhase w).symbols = w.symbols := by
  obtain ⟨hbuf, hcnt, -⟩ := pressPhase_kept w
  simp [Regs.symbols, hbuf, hcnt]

/-- A release phase leaves in the symbol buffer what its own APPENDs leave. -/
theorem releasePhase_symbols (w : Regs c) :
    (releasePhase w).symbols = (appendAll (appendsOf (releaseOps w)) w).symbols := by
  rcases releasePhase_cases w with ⟨hp, h⟩ | ⟨hp, h⟩
  · rw [h, releaseOps_rejected w hp]
    rfl
  · rw [h, releaseOps_accepted w hp]
    unfold acceptRelease classify
    cases classOf c w.elapsed <;> cases longOf c w.elapsed <;> rfl

/-- A step that is no reset leaves in the symbol buffer what its own APPENDs leave. -/
theorem stepRule_symbols (w : In3) (r : Regs c) (hr : w.rst = false) :
    (stepRule w r).symbols = (appendAll (appendsOf (internalOps w r)) r).symbols := by
  have htick : appendsOf (if w.tick then tickOps r else []) = [] := by
    cases w.tick
    · rfl
    · exact appendsOf_tickOps r
  rcases stepRule_cases w r hr with ⟨-, -, h, hops⟩ | ⟨-, -, h, hops⟩ | ⟨-, h, hops⟩ <;> rw [h, hops]
  · rw [appendsOf_append, htick, appendsOf_pressOps]
    exact (pressPhase_symbols _).trans (beforeEdge_symbols w r)
  · rw [appendsOf_append, htick, List.nil_append]
    exact (releasePhase_symbols _).trans (appendAll_symbols_congr _ (beforeEdge_symbols w r))
  · rw [htick]
    exact beforeEdge_symbols w r

/-- A run without a reset leaves in the symbol buffer what its APPENDs leave. -/
theorem runWords_symbols (r : Regs c) (ws : List In3) (hws : ∀ w ∈ ws, w.rst = false) :
    (runWords r ws).symbols = (appendAll (appendsOf (runOps r ws)) r).symbols := by
  induction ws generalizing r with
  | nil => rfl
  | cons w ws ih =>
    rw [List.forall_mem_cons] at hws
    rw [runOps, appendsOf_append, appendAll_append]
    exact (ih _ hws.2).trans (appendAll_symbols_congr _ (stepRule_symbols w r hws.1))

end Machine

open Machine

/-- Settles O34: the run counts as its APPENDs count. -/
theorem countIsNumberOfAppends : Obligations.CountIsNumberOfAppends := by
  intro c r ws hws
  obtain ⟨-, hcnt⟩ := Prod.mk.inj (runWords_symbols r ws hws)
  rw [hcnt, appendAll_cnt]

/-- Settles O35: the run stores as its APPENDs store, and those fill the reset buffer from bit 0. -/
theorem bufferHoldsAppendedSymbols : Obligations.BufferHoldsAppendedSymbols := by
  intro c k ws hws hlen i hi
  obtain ⟨hbuf, -⟩ := Prod.mk.inj (runWords_symbols (Regs.reset c k) ws hws)
  rw [hbuf]
  exact appendAll_reset_getLsbD k _ hlen i hi

end Sys2Proof

/-! PROOFS. The input word, the event vector and the opcode table (spec/30_encoding.md R40 to R44): finite facts about the
decoder and the encoder, and the induction over a run that R47 asks for. -/

namespace Sys2Proof

/-- The bits of an input word stand where R40 puts them. -/
theorem In3.getLsbD_word (w : In3) :
    w.word.getLsbD 2 = w.rst ∧ w.word.getLsbD 1 = w.tick ∧ w.word.getLsbD 0 = w.key := by
  refine ⟨?_, ?_, ?_⟩ <;> simp only [In3.word, BitVec.getLsbD_append] <;> simp

theorem In3.ofWord_word (w : In3) : In3.ofWord w.word = w := by
  obtain ⟨hrst, htick, hkey⟩ := w.getLsbD_word
  rw [In3.ofWord, hrst, htick, hkey]

theorem In3.word_ofWord : ∀ v : InputWord, (In3.ofWord v).word = v := by
  decide

/-- The opcode table is a partition of the events that occur. -/
theorem accepting_row_unique (w : In3) (keyQ : Bool) :
    (opcodeTable.filter (fun row => row.accepts (eventOf w keyQ))).length = 1 := by
  obtain ⟨rst, tick, key⟩ := w
  revert rst tick key keyQ
  decide

/-- The `match` column of the opcode table against its last two columns, row by row (R42). -/
theorem operationOf_eq_ok_iff (i : Instr) (w : In3) (keyQ : Bool) :
    operationOf w keyQ = .ok i ↔ i.selectedBy w keyQ = true := by
  obtain ⟨rst, tick, key⟩ := w
  revert rst tick key keyQ
  cases i <;> decide

/-- An impossible vector is the event of no input (R43). -/
theorem eventOf_ne_of_not_possible {v : EventVector} (hv : v.possible = false) (w : In3) (keyQ : Bool) :
    eventOf w keyQ ≠ v := by
  rintro rfl
  simp [eventOf_possible] at hv

/-- What the decoder answers comes from a row of the opcode table that accepts the vector. -/
theorem exists_row_of_decode {v : EventVector} {i : Instr} (h : decode v = .ok i) :
    ∃ row ∈ opcodeTable, row.accepts v = true ∧ row.instr = i := by
  unfold decode at h
  split at h
  · next row hfind =>
    have hacc := List.find?_some (p := fun row : TableRow => row.accepts v) hfind
    exact ⟨row, List.mem_of_find?_eq_some hfind, hacc, Except.ok.inj h⟩
  · cases h

/-- Without a reset bit the accepting row has a full mask, so its pattern is the vector. -/
theorem encode_instr_of_accepts :
    ∀ row ∈ opcodeTable, ∀ v : EventVector, v.getLsbD 3 = false → row.accepts v = true → encode row.instr = v := by
  decide

theorem decode_encode (i : Instr) : decode (encode i) = .ok i := by
  cases i <;> rfl

theorem encode_of_decode {v : EventVector} {i : Instr} (hr : v.getLsbD 3 = false) (h : decode v = .ok i) :
    encode i = v := by
  obtain ⟨row, hmem, hacc, rfl⟩ := exists_row_of_decode h
  exact encode_instr_of_accepts row hmem v hr hacc

theorem decode_of_reset_bit : ∀ v : EventVector, v.getLsbD 3 = true → decode v = .ok .rst := by
  decide

/-- In the low bits of a wide enough table word the decoder finds the event vector itself (log entry 10). -/
theorem ofNat_toNat_mod_two_pow (v : EventVector) {nbits : Nat} (hn : 4 ≤ nbits) :
    BitVec.ofNat 4 (v.toNat % 2 ^ nbits) = v := by
  have hlt : v.toNat < 2 ^ nbits := v.isLt.trans_le (Nat.pow_le_pow_right (by decide) hn)
  rw [Nat.mod_eq_of_lt hlt, BitVec.ofNat_toNat, BitVec.setWidth_eq]

/-- Settles O3: the three bits by their places, and the two conversions are inverse. -/
theorem inputWordBits : Obligations.InputWordBits :=
  ⟨In3.getLsbD_word, In3.ofWord_word, In3.word_ofWord⟩

/-- Settles O5: the table row by row, against all the inputs. -/
theorem everyInputSelectsOneOperation : Obligations.EveryInputSelectsOneOperation :=
  ⟨accepting_row_unique, operationOf_eq_ok_iff⟩

/-- Settles O7: each table word computed. -/
theorem tableWordsDecode : Obligations.TableWordsDecode :=
  ⟨rfl, rfl, rfl, rfl, rfl, rfl, rfl, rfl, rfl, rfl⟩

/-- Settles O8: an accepting row without the reset bit has a full mask, and the RST row comes first in the table. -/
theorem decodeAndEncodeAgree : Obligations.DecodeAndEncodeAgree :=
  ⟨decode_encode, fun _ _ => encode_of_decode, decode_of_reset_bit⟩

/-- Settles O9, by induction on the words: the first operation gives back its word, and with it the key level from which the
other operations are read. -/
theorem operationsDetermineWords : Obligations.OperationsDetermineWords := by
  intro keyQ ws hws
  induction ws generalizing keyQ with
  | nil => exact ⟨[], rfl, rfl⟩
  | cons w ws ih =>
    obtain ⟨hw, hws⟩ := List.forall_mem_cons.mp hws
    obtain ⟨i, hi⟩ := operationOf_total w keyQ
    obtain ⟨ops, hops, hwords⟩ := ih w.key hws
    have hword : inputFor (encode i) keyQ = w := inputFor_operationOf w keyQ i hw hi
    exact ⟨i :: ops, by simp [operationsOf, hi, hops], by simp [wordsFor, hword, hwords]⟩

end Sys2Proof

/-! PROOFS. The operation a step runs (spec/30_encoding.md R42, R43, R44): the one its word and the sampled key select, also
when the word was placed (log entry 10). -/

namespace Sys2Proof

namespace Machine

/-- A step with a word left is the meaning of the operation the word selects. -/
theorem step_eq_exec {s : State} {w : In3} {rest : List In3} {i : Instr} (hwf : s.config.wf = true)
    (hin : s.inputs = w :: rest) (hi : operationOf w s.regs.keyQ = .ok i) : step s = exec i (s.takeWord w rest) := by
  have hf : fetch s = .ok (i, s.takeWord w rest) := by simp [fetch, hwf, hin, hi]
  simp [step, hf]

/-- A step is refused for the configuration, for the end of the run, or not at all. -/
theorem step_ne_impossibleEvent (s : State) : step s ≠ .refused .impossibleEvent := by
  rcases fetch_cases s with ⟨-, hf⟩ | ⟨-, -, hf⟩ | ⟨w, rest, i, hwf, hin, hi, -⟩
  · simp [step, hf]
  · simp [step, hf]
  · simp [step_eq_exec hwf hin hi, exec_eq]

/-- A table word of four bits or more is placed as the event vector it holds. -/
theorem State.withFetchWord_toNat (s : State) (v : EventVector) {nbits : Nat} (hn : 4 ≤ nbits) :
    s.withFetchWord nbits v.toNat = s.placeEvent v :=
  congrArg s.placeEvent (ofNat_toNat_mod_two_pow v hn)

/-- The words made for an operation select it (R41, R42), for all seven together. -/
theorem operationOf_inputFor (i : Instr) : Laws.InputSelects.Statement i := by
  cases i with
  | rst => exact Laws.InputSelects.rst
  | nop => exact Laws.InputSelects.nop
  | tick => exact Laws.InputSelects.tick
  | press => exact Laws.InputSelects.press
  | release => exact Laws.InputSelects.release
  | tickPress => exact Laws.InputSelects.tickPress
  | tickRelease => exact Laws.InputSelects.tickRelease

/-- The step after placing an operation's event runs that operation, in the placed state with its word sampled. -/
theorem step_placeEvent_encode {s : State} (hwf : s.config.wf = true) (i : Instr) :
    step (s.placeEvent (encode i)) =
      exec i ((s.placeEvent (encode i)).takeWord (inputFor (encode i) s.regs.keyQ) (s.inputs.drop 1)) :=
  step_eq_exec hwf rfl (operationOf_inputFor i s.regs.keyQ)

end Machine

open Machine

/-- Settles O6: an input's event is a possible vector, which always decodes, so that no fetch meets the decoder's refusal. -/
theorem illegalEventsNeverOccur : Obligations.IllegalEventsNeverOccur :=
  ⟨rfl, rfl, fun w keyQ => ⟨eventOf_ne_of_not_possible (by decide) w keyQ, eventOf_ne_of_not_possible (by decide) w keyQ⟩,
    operationOf_total, step_ne_impossibleEvent⟩

/-- Settles O10: the placed word and key level are those `placeEvent` takes for the operation's vector, and they select it. -/
theorem placedWordIsRun : Obligations.PlacedWordIsRun := by
  intro s i hwf
  rw [s.withFetchWord_toNat (encode i) (by decide)]
  exact ⟨inputFor (encode i) s.regs.keyQ, keyQFor (encode i) s.regs.keyQ, rfl, step_placeEvent_encode hwf i⟩

/-- Settles O12: `step_eq_exec` with the sampling of the word written out. -/
theorem stepRunsDecodedInstruction : Obligations.StepRunsDecodedInstruction :=
  fun _ _ _ _ => step_eq_exec

/-- Settles O18: the registers by the equation of `exec`; the RST row of the table reads only the reset bit, and a step runs
what is selected. -/
theorem rstResult : Obligations.RstResult :=
  ⟨exec_eq .rst, operationOf_eq_ok_iff .rst,
    fun _ w _ hwf hin hr => step_eq_exec hwf hin ((operationOf_eq_ok_iff .rst w _).mpr hr)⟩

end Sys2Proof

/-! PROOFS. The words of trace operations (spec/30_encoding.md R47, R48). -/

namespace Sys2Proof

theorem repeatWords_zero (ws : List In3) : repeatWords 0 ws = [] := rfl

theorem repeatWords_succ (n : Nat) (ws : List In3) : repeatWords (n + 1) ws = ws ++ repeatWords n ws := by
  simp [repeatWords, List.replicate_succ]

theorem repeatWords_one (ws : List In3) : repeatWords 1 ws = ws := by
  simp [repeatWords]

theorem repeatWords_singleton (n : Nat) (w : In3) : repeatWords n [w] = List.replicate n w := by
  simp [repeatWords]

/-- The words of one repeated operation. -/
theorem Trace.words_line_nil (op : TraceOp) (n : Nat) : (Trace.line op n .nil).words = repeatWords n op.words := by
  simp [Trace.words]

/-- The words of one `REP` block without a count. -/
theorem Trace.words_rep_once (n : Nat) (body : Trace) : (Trace.rep n 1 body .nil).words = repeatWords n body.words := by
  simp [Trace.words, repeatWords_one]

/-- A count of one more puts the operation's words in front once more. -/
theorem Trace.words_line_succ (op : TraceOp) (n : Nat) (rest : Trace) :
    (Trace.line op (n + 1) rest).words = op.words ++ (Trace.line op n rest).words := by
  simp [Trace.words, repeatWords_succ]

theorem Trace.words_line_zero (op : TraceOp) (rest : Trace) : (Trace.line op 0 rest).words = rest.words := by
  simp [Trace.words, repeatWords_zero]

/-- `HOLD n` is the press, `n` ticks with the key down, the release (R48). -/
theorem TraceOp.words_hold (n : Nat) :
    (TraceOp.hold n).words = TraceOp.down.words ++ (Trace.line (.tick true) n .nil).words ++ TraceOp.up.words := by
  simp [Trace.words_line_nil, TraceOp.words, repeatWords_singleton]

theorem TraceOp.words_gap (n : Nat) : (TraceOp.gap n).words = (Trace.line (.tick false) n .nil).words := by
  simp [Trace.words_line_nil, TraceOp.words, repeatWords_singleton]

theorem TraceOp.words_wait (n : Nat) (k : Bool) : (TraceOp.wait n k).words = (Trace.line (.idle k) n .nil).words := by
  simp [Trace.words_line_nil, TraceOp.words, repeatWords_singleton]

theorem Trace.words_rep_succ (n : Nat) (body : Trace) :
    (Trace.rep (n + 1) 1 body .nil).words = body.words ++ (Trace.rep n 1 body .nil).words := by
  simp only [Trace.words_rep_once, repeatWords_succ]

/-- Settles O11: the words of R47 are the definitions' own; each pseudo-instruction is a repetition by the lemmas above. -/
theorem traceOperationsExpand : Obligations.TraceOperationsExpand :=
  ⟨fun _ => ⟨rfl, rfl, rfl, rfl⟩, rfl, rfl, TraceOp.words_hold, TraceOp.words_gap, TraceOp.words_wait,
    Trace.words_rep_succ, Trace.words_rep_once 0,
    fun op n rest => ⟨Trace.words_line_succ op n rest, Trace.words_line_zero op rest⟩⟩

end Sys2Proof

/-! PROOFS. A hold from IDLE (spec/30_encoding.md R48, spec/41_timer_state_machine.md R66): the press clears the counter, each
tick below `T_MAX` adds one, and the release classifies what was counted. -/

namespace Sys2Proof

namespace Machine

variable {c : Config}

theorem control_eq_idle {r : Regs c} : r.control = .idle ↔ r.timing = false ∧ r.pressed = false := by
  unfold Regs.control
  cases r.timing <;> cases r.pressed <;> simp [controlOf]

/-- A step whose key goes down runs the press phase. -/
theorem stepRule_pressEdge {w : In3} {r : Regs c} (hr : w.rst = false) (hk : w.key = true) (hq : r.keyQ = false) :
    stepRule w r = sampleKey true (pressPhase (beforeEdge w r)) := by
  rcases stepRule_cases w r hr with ⟨-, -, h, -⟩ | ⟨hk', -⟩ | ⟨hkq, -⟩
  · exact h
  · simp [hk] at hk'
  · simp [hk, hq] at hkq

/-- A step whose key goes up runs the release phase. -/
theorem stepRule_releaseEdge {w : In3} {r : Regs c} (hr : w.rst = false) (hk : w.key = false) (hq : r.keyQ = true) :
    stepRule w r = sampleKey false (releasePhase (beforeEdge w r)) := by
  rcases stepRule_cases w r hr with ⟨hk', -⟩ | ⟨-, -, h, -⟩ | ⟨hkq, -⟩
  · simp [hk] at hk'
  · exact h
  · simp [hk, hq] at hkq

/-- A step whose key stays has no edge phase. -/
theorem stepRule_steady {w : In3} {r : Regs c} (hr : w.rst = false) (hk : w.key = r.keyQ) :
    stepRule w r = sampleKey r.keyQ (beforeEdge w r) := by
  rcases stepRule_cases w r hr with ⟨hk', hq, -⟩ | ⟨hk', hq, -⟩ | ⟨-, h, -⟩
  · simp [hk', hq] at hk
  · simp [hk', hq] at hk
  · exact h

/-- Below `T_MAX` a tick while timing is counted and runs no TIMEOUT (R56). -/
theorem beforeEdge_counted {w : In3} {r : Regs c} (hwf : c.wf = true) (ht : w.tick = true) (hti : r.timing = true)
    (hlt : r.elapsed.toNat + 1 < c.tMax) :
    beforeEdge w r = countTick (pulseClear r) ∧ (countTick (pulseClear r)).elapsed.toNat = r.elapsed.toNat + 1 := by
  obtain ⟨-, -, -, hMax, -⟩ := c.wf_iff.mp hwf
  have hmod : (r.elapsed.toNat + 1) % 2 ^ c.ctrW = r.elapsed.toNat + 1 := Nat.mod_eq_of_lt (by omega)
  refine ⟨?_, by simpa [BitVec.toNat_add] using hmod⟩
  rcases beforeEdge_cases w r with ⟨-, hno, -⟩ | ⟨-, -, -, h, -⟩ | ⟨-, -, hle, -⟩
  · simp [ht, hti] at hno
  · exact h
  · omega

/-- `r` is TIMING with the key down and `m` ticks counted, and the buffer and the display are still those of `r₀`. -/
structure Regs.HeldFrom (r₀ : Regs c) (m : Nat) (r : Regs c) : Prop where
  keyQ    : r.keyQ = true
  timing  : r.timing = true
  pressed : r.pressed = true
  elapsed : r.elapsed.toNat = m
  buf     : r.buf = r₀.buf
  cnt     : r.cnt = r₀.cnt
  disp    : r.disp = r₀.disp

/-- `DOWN` from IDLE with the key up begins a hold (R58). -/
theorem stepRule_down_heldFrom {r : Regs c} (hidle : r.control = .idle) (hq : r.keyQ = false) :
    r.HeldFrom 0 (stepRule (In3.idleWord true) r) := by
  obtain ⟨hti, hp⟩ := control_eq_idle.mp hidle
  have hb : beforeEdge (In3.idleWord true) r = pulseClear r := rfl
  rw [stepRule_pressEdge rfl rfl hq, hb, (pressPhase_effect (pulseClear r)).accepted]
  · constructor <;> simp
  · exact hti
  · exact hp

/-- A tick below `T_MAX` lengthens a hold by one (R56). -/
theorem stepRule_tick_heldFrom {r₀ r : Regs c} {m : Nat} (hwf : c.wf = true) (h : r₀.HeldFrom m r) (hlt : m + 1 < c.tMax) :
    r₀.HeldFrom (m + 1) (stepRule (In3.tickWord true) r) := by
  obtain ⟨hq, hti, hp, rfl, hbuf, hcnt, hdisp⟩ := h
  obtain ⟨hb, hcount⟩ := beforeEdge_counted (w := In3.tickWord true) hwf rfl hti hlt
  rw [stepRule_steady rfl hq.symm, hb]
  exact ⟨hq, hti, hp, hcount, hbuf, hcnt, hdisp⟩

theorem runWords_ticks_heldFrom {r₀ r : Regs c} {m : Nat} (hwf : c.wf = true) (h : r₀.HeldFrom m r) (n : Nat)
    (hlt : m + n < c.tMax) : r₀.HeldFrom (m + n) (runWords r (List.replicate n (In3.tickWord true))) := by
  induction n generalizing r m with
  | zero => exact h
  | succ n ih =>
    have htick := stepRule_tick_heldFrom hwf h (by omega)
    rw [List.replicate_succ, runWords, show m + (n + 1) = m + 1 + n by omega]
    exact ih htick (by omega)

/-- A run of `HOLD n` is its release step after the press and the ticks. -/
theorem runWords_hold (r : Regs c) (n : Nat) :
    runWords r (TraceOp.hold n).words =
      stepRule (In3.idleWord false)
        (runWords (stepRule (In3.idleWord true) r) (List.replicate n (In3.tickWord true))) := by
  simp [TraceOp.words, runWords, runWords_append]

/-- `UP` ends a hold with a release phase on the registers of the hold, their pulses dropped (R62). -/
theorem stepRule_up_of_heldFrom {r₀ r : Regs c} {m : Nat} (h : r₀.HeldFrom m r) :
    stepRule (In3.idleWord false) r = sampleKey false (releasePhase (pulseClear r)) :=
  stepRule_releaseEdge rfl rfl h.keyQ

end Machine

open Machine

/-- Settles O49: the press and the `n` ticks end in a hold of `n`, and the release phase has its effect on that. -/
theorem holdIsClassifiedByItsTicks : Obligations.HoldIsClassifiedByItsTicks := by
  intro c r n hwf hidle hq hlt
  have hheld := runWords_ticks_heldFrom hwf (stepRule_down_heldFrom hidle hq) n (by omega)
  rw [Nat.zero_add] at hheld
  rw [runWords_hold, stepRule_up_of_heldFrom hheld]
  generalize runWords (stepRule (In3.idleWord true) r) (List.replicate n (In3.tickWord true)) = v at hheld
  obtain ⟨-, hTiming, hp, rfl, hbuf, hcnt, hdisp⟩ := hheld
  rw [← hbuf, ← hcnt, ← hdisp]
  have he := releasePhase_effect (pulseClear v)
  obtain ⟨hEnded, hMode⟩ := he.control hp
  obtain ⟨hElapsed, -, hClr⟩ := he.kept hp
  exact ⟨congrArg BitVec.toNat hElapsed, rfl, hEnded, by simpa [hTiming] using hMode, hClr,
    fun ha => ⟨he.counted hp ha, he.stored hp ha⟩, he.unstored hp, he.shown hp, he.unshown hp⟩

end Sys2Proof

/-! PROOFS. Edges and the sampled key (spec/40_edge_detect.md): an edge lasts one step, and an edge that its phase rejects leaves
what the tick phase left, but for the sampled key (R49, R50, R51, R53). -/

namespace Sys2Proof

/-- The bits of an event vector stand where R41 puts them. -/
theorem getLsbD_eventOf (w : In3) (keyQ : Bool) :
    (eventOf w keyQ).getLsbD 3 = w.rst ∧ (eventOf w keyQ).getLsbD 2 = w.tick ∧
      (eventOf w keyQ).getLsbD 1 = riseOf w.key keyQ ∧ (eventOf w keyQ).getLsbD 0 = fallOf w.key keyQ := by
  refine ⟨?_, ?_, ?_, ?_⟩ <;> simp only [eventOf, EventVector.ofBits, BitVec.getLsbD_append] <;> simp

/-- A press edge and a release edge exclude each other (R50). -/
theorem fallOf_of_riseOf {key keyQ : Bool} (h : riseOf key keyQ = true) : fallOf key keyQ = false := by
  revert key keyQ
  decide

/-- A key that stays at its sampled level gives no edge (R50). -/
theorem riseOf_fallOf_self (k : Bool) : riseOf k k = false ∧ fallOf k k = false := by
  revert k
  decide

theorem getLsbD_eventOf_steady {w : In3} {keyQ : Bool} (h : w.key = keyQ) :
    (eventOf w keyQ).getLsbD 1 = false ∧ (eventOf w keyQ).getLsbD 0 = false := by
  obtain ⟨-, -, hrise, hfall⟩ := getLsbD_eventOf w keyQ
  rw [hrise, hfall, h]
  exact riseOf_fallOf_self keyQ

namespace Machine

variable {c : Config} {w : In3} {r : Regs c}

/-- Every step, a reset too, leaves its key level in `key_q` (R49). -/
theorem stepRule_keyQ (w : In3) (r : Regs c) : (stepRule w r).keyQ = w.key := by
  cases hr : w.rst
  · rcases stepRule_cases w r hr with ⟨hk, -, h, -⟩ | ⟨hk, -, h, -⟩ | ⟨hk, h, -⟩ <;> rw [h, hk] <;> rfl
  · rw [(stepRule_rst w r hr).1]
    rfl

/-- A tick while not timing is as no tick (R56). -/
theorem stepRule_tick_ignored (hti : r.timing = false) : stepRule w r = stepRule { w with tick := false } r := by
  have htick : tickPhase (pulseClear r) = pulseClear r := (tickPhase_effect (pulseClear r)).ignored hti
  simp [stepRule, htick]

/-- A step whose edge, if it has one, is rejected by its phase only samples the key after the tick phase (R51). -/
theorem stepRule_edge_rejected (hr : w.rst = false)
    (hp : EventSource.pressEdge.present w r.keyQ = true → EventSource.pressEdge.enabled (beforeEdge w r) = false)
    (hf : EventSource.releaseEdge.present w r.keyQ = true → EventSource.releaseEdge.enabled (beforeEdge w r) = false) :
    stepRule w r = sampleKey w.key (beforeEdge w r) := by
  rcases stepRule_cases w r hr with ⟨hk, hq, h, -⟩ | ⟨hk, hq, h, -⟩ | ⟨hk, h, -⟩
  · have hrej : pressAccepted (beforeEdge w r) = false := hp (by simp [EventSource.present, riseOf, hk, hq])
    simp [h, hk, pressPhase, hrej]
  · have hrej : (beforeEdge w r).pressed = false := hf (by simp [EventSource.present, fallOf, hk, hq])
    rw [h, hk, (releasePhase_effect (beforeEdge w r)).rejected hrej]
  · rw [h, hk]

/-- A step whose edge is rejected leaves what the step with a steady key leaves, but for `key_q`. -/
theorem stepRule_edge_rejected_eq_steady (hr : w.rst = false)
    (hp : EventSource.pressEdge.present w r.keyQ = true → EventSource.pressEdge.enabled (beforeEdge w r) = false)
    (hf : EventSource.releaseEdge.present w r.keyQ = true → EventSource.releaseEdge.enabled (beforeEdge w r) = false) :
    stepRule w r = { stepRule { w with key := r.keyQ } r with keyQ := w.key } := by
  rw [stepRule_edge_rejected hr hp hf, stepRule_steady (w := { w with key := r.keyQ }) hr rfl]
  rfl

end Machine

open Machine

/-- Settles O4: the bits by their places, and every step ends by sampling the key. -/
theorem eventVectorBits : Obligations.EventVectorBits := by
  refine ⟨fun w keyQ => ?_, fun c r v w => ⟨stepRule_keyQ v r, fun hk => ?_⟩⟩
  · obtain ⟨hrst, htick, hrise, hfall⟩ := getLsbD_eventOf w keyQ
    refine ⟨hrst, htick, hrise, hfall, ?_, getLsbD_eventOf_steady⟩
    rw [hrise, hfall]
    rintro ⟨h1, h0⟩
    simp [fallOf_of_riseOf h1] at h0
  · exact getLsbD_eventOf_steady (hk.trans (stepRule_keyQ v r).symm)

/-- Settles O19: the registers by the equation of `exec`, the inputs by the NOP row of the table. -/
theorem nopResult : Obligations.NopResult :=
  ⟨exec_eq .nop, fun w keyQ => by simp [operationOf_eq_ok_iff, Instr.selectedBy, and_assoc]⟩

/-- Settles O40: the tick phase ignores the tick, and an edge phase that rejects its edge leaves the sampling alone; the other
edge is then not present. -/
theorem disabledEventsHaveNoEffect : Obligations.DisabledEventsHaveNoEffect := by
  intro c w r hr
  refine ⟨stepRule_tick_ignored, fun hrise hoff => ?_, fun hfall hoff => ?_⟩
  · exact stepRule_edge_rejected_eq_steady hr (fun _ => hoff)
      fun hfall => absurd hfall (by simp [EventSource.present, fallOf_of_riseOf hrise])
  · exact stepRule_edge_rejected_eq_steady hr
      (fun hrise => absurd hfall (by simp [EventSource.present, fallOf_of_riseOf hrise])) fun _ => hoff

end Sys2Proof

/-! PROOFS. A key that moves in RELEASED_TIMING (spec/40_edge_detect.md R51, spec/70_reset_and_hazards.md R97 item 2): until a
TIMEOUT neither edge is enabled, so only the sampled key tells the run from the run with the key up. -/

namespace Sys2Proof

namespace Machine

variable {c : Config} {w : In3} {r : Regs c}

theorem sampleKey_of_keyQ {k : Bool} (h : r.keyQ = k) : sampleKey k r = r := by
  subst h
  rfl

/-- The tick phase does not read the sampled key. -/
theorem tickPhase_sampleKey (k : Bool) (w : Regs c) : tickPhase (sampleKey k w) = sampleKey k (tickPhase w) := by
  simp only [tickPhase, apply_ite (sampleKey k)]
  rfl

/-- The phases before the edge phase read neither the key nor the sampled key. -/
theorem beforeEdge_sampleKey (k : Bool) (w : In3) (r : Regs c) :
    beforeEdge { w with key := k } (sampleKey k r) = sampleKey k (beforeEdge w r) := by
  simp only [beforeEdge, apply_ite (sampleKey k), ← tickPhase_sampleKey]
  rfl

/-- Only a TIMEOUT ends RELEASED_TIMING before the edge phase. -/
theorem beforeEdge_releasedTiming (h : r.control = .releasedTiming) (hr : w.rst = false)
    (hno : .timeout ∉ internalOps w r) : (beforeEdge w r).control = .releasedTiming := by
  rcases beforeEdge_cases w r with ⟨hb, -⟩ | ⟨-, -, -, hb, -⟩ | ⟨ht, hti, hle, -⟩
  · rwa [hb]
  · rwa [hb]
  · exact absurd (timeout_mem_internalOps.mpr ⟨hr, ht, tickTimesOut_eq_true.mpr ⟨hti, hle⟩⟩) hno

/-- In RELEASED_TIMING a press edge finds the timer running and a release edge finds no press, so both are rejected. -/
theorem stepRule_releasedTiming (h : r.control = .releasedTiming) (hr : w.rst = false)
    (hno : .timeout ∉ internalOps w r) : stepRule w r = sampleKey w.key (beforeEdge w r) := by
  obtain ⟨hti, hp⟩ := control_eq_releasedTiming.mp (beforeEdge_releasedTiming h hr hno)
  exact stepRule_edge_rejected hr (fun _ => by simp [EventSource.enabled, pressAccepted, hti]) fun _ => hp

/-- Until a TIMEOUT ends RELEASED_TIMING, a run and the same run with the key up differ in the sampled key only. -/
theorem runWords_keyUp_of_releasedTiming (ws : List In3) (h : r.control = .releasedTiming)
    (hws : ∀ w ∈ ws, w.rst = false) (hno : .timeout ∉ runOps r ws) :
    sampleKey false (runWords r ws) =
      runWords (sampleKey false r) (ws.map (fun w => { w with key := false })) := by
  induction ws generalizing r with
  | nil => rfl
  | cons w ws ih =>
    obtain ⟨hr, hws⟩ := List.forall_mem_cons.mp hws
    rw [runOps, List.mem_append, not_or] at hno
    have hstep := stepRule_releasedTiming h hr hno.1
    have hcontrol : (stepRule w r).control = .releasedTiming := by
      rw [hstep]
      exact beforeEdge_releasedTiming h hr hno.1
    have hup : sampleKey false (stepRule w r) = stepRule { w with key := false } (sampleKey false r) := by
      rw [hstep, stepRule_steady (w := { w with key := false }) hr rfl, beforeEdge_sampleKey]
      rfl
    rw [runWords, ih hcontrol hws hno.2, hup]
    rfl

end Machine

open Machine

/-- Settles O51: the two runs can differ in the sampled key only, and the last word, the same in both, samples the key up. -/
theorem rejectedPressLeavesNoTrace : Obligations.RejectedPressLeavesNoTrace := by
  intro c r held q hcontrol hq hheld hqr hqk hno
  have hws : ∀ w ∈ held ++ [q], w.rst = false :=
    List.forall_mem_append.mpr ⟨fun w hw => (hheld w hw).1, List.forall_mem_singleton.mpr hqr⟩
  have hlast : (runWords r (held ++ [q])).keyQ = false := by
    rw [runWords_append]
    exact (stepRule_keyQ q _).trans hqk
  have hup : ({ q with key := false } : In3) = q := by rw [← hqk]
  calc runWords r (held ++ [q])
      = sampleKey false (runWords r (held ++ [q])) := (sampleKey_of_keyQ hlast).symm
    _ = runWords (sampleKey false r) ((held ++ [q]).map (fun w => { w with key := false })) :=
        runWords_keyUp_of_releasedTiming _ hcontrol hws hno
    _ = runWords r (held.map (fun w => { w with key := false }) ++ [q]) := by
        rw [sampleKey_of_keyQ hq, List.map_append, List.map_singleton, hup]

end Sys2Proof

/-! PROOFS. A bounce at the start of a press (spec/40_edge_detect.md R52): the first release is noise, and whether the second
press is accepted depends on whether that release stopped the timer. -/

namespace Sys2Proof

namespace Machine

variable {c : Config} {r : Regs c}

/-- The noise action and the long-press action show the same pattern (spec/42_symbol_classifier.md R69). -/
theorem act_noise (lng : Bool) (w : Regs c) : act .noise lng w = showPattern c.patError w := by
  cases lng <;> rfl

/-- A release below `T_LOW` shows the error pattern and ends the press (R59, R68, R69). -/
theorem releasePhase_noise {w : Regs c} (hp : w.pressed = true) (hlow : w.elapsed.toNat < c.tLow) :
    releasePhase w = endPress (showPattern c.patError w) := by
  simp [releasePhase, hp, acceptRelease, classify, classOf_eq_noise.mpr hlow, act_noise]

/-- `DOWN` from IDLE with the key up is an accepted press (R58). -/
theorem stepRule_down_accepted (hidle : r.control = .idle) (hq : r.keyQ = false) :
    stepRule (In3.idleWord true) r = sampleKey true (acceptPress (pulseClear r)) := by
  obtain ⟨hti, hp⟩ := control_eq_idle.mp hidle
  have hpress : pressPhase (pulseClear r) = acceptPress (pulseClear r) := (pressPhase_effect (pulseClear r)).accepted hti hp
  rw [← hpress]
  exact stepRule_pressEdge rfl rfl hq

/-- `DOWN` while timing with the key up is a rejected press (R58). -/
theorem stepRule_down_rejected (hti : r.timing = true) (hq : r.keyQ = false) :
    stepRule (In3.idleWord true) r = sampleKey true (pulseClear r) := by
  have hpress : pressPhase (pulseClear r) = pulseClear r := (pressPhase_effect (pulseClear r)).rejected (.inl hti)
  rw [← hpress]
  exact stepRule_pressEdge rfl rfl hq

/-- `UP` below `T_LOW` after a latched press is noise. -/
theorem stepRule_up_noise (hp : r.pressed = true) (hlow : r.elapsed.toNat < c.tLow) (hq : r.keyQ = true) :
    stepRule (In3.idleWord false) r = sampleKey false (endPress (showPattern c.patError (pulseClear r))) := by
  rw [← releasePhase_noise (w := pulseClear r) hp hlow]
  exact stepRule_releaseEdge rfl rfl hq

end Machine

open Machine

/-- Settles O57: press and noise release leave `timing` to `RELEASE_STOPS_TIMING`, which decides over the second press. -/
theorem bounceAtPress : Obligations.BounceAtPress := by
  intro c r hwf hidle hq
  obtain ⟨⟨hlow, -⟩, -⟩ := c.wf_iff.mp hwf
  rw [runWords, runWords, runWords, runWords, stepRule_down_accepted hidle hq,
    stepRule_up_noise rfl (by simpa using hlow) rfl]
  cases hmode : c.releaseStopsTiming
  · rw [stepRule_down_rejected (by simp [timingAfterRelease_eq, hmode]) rfl]
    simp [sampleKey, pulseClear, endPress, showPattern, acceptPress, timingAfterRelease_eq, hmode]
  · rw [stepRule_down_accepted (control_eq_idle.mpr ⟨by simp [timingAfterRelease_eq, hmode], rfl⟩) rfl]
    rfl

end Sys2Proof

/-! PROOFS. The machine against the step function of spec/41_timer_state_machine.md R54: one step, and by induction on the words a
run (spec/70_reset_and_hazards.md R100). -/

namespace Sys2Proof

namespace Machine

/-- A run of one step more goes on from what its first step leaves. -/
theorem core_run_succ {s t : State} (k : Nat) (h : step s = .next t) :
    Host.Core.run core (k + 1) s = Host.Core.run core k t := by
  have hcore : core.step s = .next t := h
  simp only [Host.Core.run, hcore]

/-- A run over exactly the words that are left is the step function word by word. -/
theorem core_run_eq_runWords (s : State) (hwf : s.config.wf = true) (ws : List In3) :
    Host.Core.run core ws.length { s with inputs := ws } =
      .next { s with regs := runWords s.regs ws, sample := ws.getLast?.getD s.sample, inputs := [] } := by
  induction ws generalizing s with
  | nil => rfl
  | cons w ws ih =>
    have hstep := step_eq_stepRule { s with inputs := w :: ws } w ws hwf rfl
    have hrest := ih { s with regs := stepRule w s.regs, sample := w } hwf
    rw [List.length_cons, List.getLast?_cons]
    exact (core_run_succ ws.length hstep).trans hrest

end Machine

open Machine

/-- Settles O16: the operation the word selects leaves the registers of the pseudocode, by `step_eq_stepRule`. -/
theorem stepFollowsStepFunction : Obligations.StepFollowsStepFunction :=
  step_eq_stepRule

/-- Settles O17, by induction on the words to come. -/
theorem runFollowsStepFunction : Obligations.RunFollowsStepFunction :=
  fun s hwf => core_run_eq_runWords s hwf s.inputs

end Sys2Proof

/-! PROOFS. The five operations of the timer state machine (spec/41_timer_state_machine.md R60 to R64), each the effects of its
phases in the order of R54, and what that order means when the tick times out. -/

namespace Sys2Proof

namespace Machine

variable {c : Config}

/-- A tick that brings the count to `T_MAX` runs TIMEOUT on the counted registers (R56). -/
theorem tickPhase_timedOut {w : Regs c} (hti : w.timing = true) (hle : c.tMax ≤ (w.elapsed.toNat + 1) % 2 ^ c.ctrW) :
    tickPhase w = timeout (countTick w) := by
  simp [tickPhase, hti, tickTimesOut_eq_true.mpr ⟨hti, hle⟩]

/-- A release after a TIMEOUT that kept the latch measures 0 ticks, which is noise (R57, R59, R64). -/
theorem releasePhase_timeout_latched {w : Regs c} (hlow : 0 < c.tLow) (hmode : c.timeoutClearsLatch = false)
    (hp : w.pressed = true) : releasePhase (timeout w) = endPress (showPattern c.patError (timeout w)) :=
  releasePhase_noise (by simp [pressedAfterTimeout_eq, hmode, hp]) (by simpa using hlow)

/-- A release after a TIMEOUT that cleared the latch is rejected (R57, R59, R64). -/
theorem releasePhase_timeout_cleared {w : Regs c} (hmode : c.timeoutClearsLatch = true) :
    releasePhase (timeout w) = timeout w :=
  (releasePhase_effect (timeout w)).rejected (by simp [pressedAfterTimeout_eq, hmode])

end Machine

open Machine

/-- Settles O20: the tick phase has its effect, and the TICK row of the table reads the inputs. -/
theorem tickResult : Obligations.TickResult :=
  ⟨fun s => ⟨tickPhase (pulseClear s.regs), tickPhase_effect _, exec_eq .tick s⟩,
    fun w keyQ => by simp [operationOf_eq_ok_iff, Instr.selectedBy, and_assoc]⟩

/-- The inputs of the PRESS row. -/
theorem operationOf_eq_press_iff (w : In3) (keyQ : Bool) :
    operationOf w keyQ = .ok .press ↔ w.rst = false ∧ w.tick = false ∧ w.key = true ∧ keyQ = false := by
  simp [operationOf_eq_ok_iff, Instr.selectedBy, and_assoc]

/-- Settles O21: the press phase has its effect; a PRESS needs a key that was up, which under R30 item 7 excludes a latch. -/
theorem pressResult : Obligations.PressResult := by
  refine ⟨fun s => ⟨pressPhase (pulseClear s.regs), pressPhase_effect _, exec_eq .press s⟩, operationOf_eq_press_iff,
    fun s w hinv hop => ?_⟩
  obtain ⟨-, -, -, hup⟩ := (operationOf_eq_press_iff w s.regs.keyQ).mp hop
  by_contra hlatched
  simp [hinv.regsInv.latchedKeyDown (by simpa using hlatched)] at hup

/-- Settles O22: the release phase has its effect, and the RELEASE row of the table reads the inputs. -/
theorem releaseResult : Obligations.ReleaseResult :=
  ⟨fun s => ⟨releasePhase (pulseClear s.regs), releasePhase_effect _, exec_eq .release s⟩,
    fun w keyQ => by simp [operationOf_eq_ok_iff, Instr.selectedBy, and_assoc]⟩

/-- Settles O23: the tick effect, then the press effect on its result. -/
theorem tickPressResult : Obligations.TickPressResult :=
  ⟨fun s => ⟨tickPhase (pulseClear s.regs), pressPhase (tickPhase (pulseClear s.regs)), tickPhase_effect _,
      pressPhase_effect _, exec_eq .tickPress s⟩,
    fun w keyQ => by simp [operationOf_eq_ok_iff, Instr.selectedBy, and_assoc]⟩

/-- Settles O24: the tick effect, then the release effect on its result. -/
theorem tickReleaseResult : Obligations.TickReleaseResult :=
  ⟨fun s => ⟨tickPhase (pulseClear s.regs), releasePhase (tickPhase (pulseClear s.regs)), tickPhase_effect _,
      releasePhase_effect _, exec_eq .tickRelease s⟩,
    fun w keyQ => by simp [operationOf_eq_ok_iff, Instr.selectedBy, and_assoc]⟩

/-- Settles O26: while not timing the tick phase does nothing, so the press phase meets the same registers in both. -/
theorem pressStepTickNotCounted : Obligations.PressStepTickNotCounted := by
  intro s hti hp
  have htick : tickPhase (pulseClear s.regs) = pulseClear s.regs := (tickPhase_effect (pulseClear s.regs)).ignored hti
  have hpress : pressPhase (pulseClear s.regs) = acceptPress (pulseClear s.regs) :=
    (pressPhase_effect (pulseClear s.regs)).accepted hti hp
  rw [exec_eq, exec_eq, regsAfter, regsAfter, htick, hpress]
  exact ⟨rfl, _, rfl, rfl, rfl, rfl⟩

/-- Settles O27: the release meets the registers of the TIMEOUT, with or without a latch to release. -/
theorem timeoutComesBeforeRelease : Obligations.TimeoutComesBeforeRelease := by
  intro s hlow hti hp hle
  rw [exec_eq, regsAfter, tickPhase_timedOut (w := pulseClear s.regs) hti hle]
  cases hmode : s.config.timeoutClearsLatch
  · rw [releasePhase_timeout_latched (w := countTick (pulseClear s.regs)) hlow hmode hp]
    simp [sampleKey, endPress, showPattern, timeout, countTick, pulseClear, timingAfterRelease_eq]
  · rw [releasePhase_timeout_cleared hmode]
    simp [sampleKey, showPattern, timeout, countTick, pulseClear, pressedAfterTimeout_eq, hmode]

/-- Settles O28: the TIMEOUT ends RELEASED_TIMING, so the press meets IDLE and is accepted. -/
theorem timeoutComesBeforePress : Obligations.TimeoutComesBeforePress := by
  intro s hti hp hle
  rw [exec_eq, regsAfter, tickPhase_timedOut (w := pulseClear s.regs) hti hle, (pressPhase_effect _).accepted rfl]
  · rfl
  · simp [pressedAfterTimeout_eq, hp]

end Sys2Proof

/-! PROOFS. The control state over a step (spec/41_timer_state_machine.md R67): each phase moves it as the table moves it on the
internal operations of the phase. -/

namespace Sys2Proof

namespace Machine

variable {c : Config}

/-- The table has no row for a symbol or a pattern shown. -/
theorem ControlState.foldl_after_classOps (q : ControlState) (cls : SymbolClass) :
    (classOps cls).foldl (ControlState.after c) q = q := by
  cases cls <;> cases q <;> rfl

theorem ControlState.after_showError (q : ControlState) : q.after c .showError = q := by
  cases q <;> rfl

theorem ControlState.after_classify (q : ControlState) : q.after c .classify = q := by
  cases q <;> rfl

/-- Ticks move the control state by TIMEOUT alone. -/
theorem beforeEdge_control (w : In3) (r : Regs c) :
    (beforeEdge w r).control = (if w.tick then tickOps r else []).foldl (ControlState.after c) r.control := by
  rcases beforeEdge_cases w r with ⟨hb, -, hops⟩ | ⟨-, -, -, hb, hops⟩ | ⟨-, hti, -, hb, hops⟩ <;> rw [hb, hops]
  · rfl
  · rfl
  · cases hp : r.pressed <;> cases hmode : c.timeoutClearsLatch <;>
      simp [Regs.control, controlOf, ControlState.after, pressedAfterTimeout_eq, hti, hp, hmode]

theorem pressPhase_control (w : Regs c) :
    (pressPhase w).control = (pressOps w).foldl (ControlState.after c) w.control := by
  rcases pressPhase_cases w with ⟨hti, hp, h⟩ | ⟨hor, h⟩
  · have hidle : w.control = .idle := control_eq_idle.mpr ⟨hti, hp⟩
    rw [h, hidle, pressOps, pressAccepted_eq_true.mpr ⟨hti, hp⟩]
    rfl
  · have hrej : ¬ pressAccepted w = true := by
      rw [pressAccepted_eq_true]
      rintro ⟨hti, hp⟩
      simp [hti, hp] at hor
    rw [h, pressOps, if_neg hrej]
    rfl

theorem releasePhase_control (w : Regs c) :
    (releasePhase w).control = (releaseOps w).foldl (ControlState.after c) w.control := by
  cases hp : w.pressed
  · rw [(releasePhase_effect w).rejected hp, releaseOps_rejected w hp]
    rfl
  · obtain ⟨hEnded, hTiming⟩ := (releasePhase_effect w).control hp
    have hrow : (releasePhase w).control = w.control.after c .acceptedRelease := by
      cases hti : w.timing <;> cases hmode : c.releaseStopsTiming <;>
        simp [Regs.control, controlOf, ControlState.after, hEnded, hTiming, hp, hti, hmode]
    rw [hrow, releaseOps_accepted w hp]
    cases longOf c w.elapsed <;>
      simp [ControlState.foldl_after_classOps, ControlState.after_classify, ControlState.after_showError]

/-- The sampled key is no part of the control state. -/
theorem sampleKey_control (k : Bool) (w : Regs c) : (sampleKey k w).control = w.control := rfl

end Machine

open Machine

/-- Settles O36: the phases of the step one after the other, their operations concatenated. -/
theorem controlFollowsTransitionTable : Obligations.ControlFollowsTransitionTable := by
  refine fun c w r => ⟨fun hr => ?_, fun hr => ?_⟩
  · rw [(stepRule_rst w r hr).1]
    rfl
  · rcases stepRule_cases w r hr with ⟨-, -, h, hops⟩ | ⟨-, -, h, hops⟩ | ⟨-, h, hops⟩ <;>
      rw [h, hops, sampleKey_control]
    · rw [pressPhase_control, List.foldl_append, beforeEdge_control]
    · rw [releasePhase_control, List.foldl_append, beforeEdge_control]
    · exact beforeEdge_control w r

end Sys2Proof

/-! PROOFS. With `RELEASE_STOPS_TIMING = 1` the timer runs only while a press is held (spec/70_reset_and_hazards.md R97 items 2
and 4). -/

namespace Sys2Proof

namespace Machine

variable {c : Config} {w : In3} {r : Regs c}

theorem acceptedRelease_mem_internalOps :
    .acceptedRelease ∈ internalOps w r ↔
      w.rst = false ∧ w.key = false ∧ r.keyQ = true ∧ (beforeEdge w r).pressed = true := by
  simp [mem_internalOps, mem_tickOps, mem_pressOps, mem_releaseOps, mem_classOps]

/-- A release phase ends in IDLE when there is a press to release, which stops the timer, or no timing to stop (R59). -/
theorem releasePhase_idle {w : Regs c} (hmode : c.releaseStopsTiming = true) (h : w.pressed = true ∨ w.timing = false) :
    (releasePhase w).control = .idle := by
  have he := releasePhase_effect w
  refine control_eq_idle.mpr ⟨?_, releasePhase_pressed w⟩
  cases hp : w.pressed
  · rw [he.rejected hp]
    simpa [hp] using h
  · rw [(he.control hp).2, hmode]
    rfl

/-- An accepted release ends in IDLE with the key up. -/
theorem stepRule_idle_of_acceptedRelease (hmode : c.releaseStopsTiming = true)
    (h : .acceptedRelease ∈ internalOps w r) : (stepRule w r).control = .idle ∧ (stepRule w r).keyQ = false := by
  obtain ⟨hr, hk, hq, hp⟩ := acceptedRelease_mem_internalOps.mp h
  rw [stepRule_releaseEdge hr hk hq]
  exact ⟨releasePhase_idle hmode (.inl hp), rfl⟩

/-- While not timing, a tick is ignored, so only the pulses drop before the edge phase (R55, R56). -/
theorem beforeEdge_of_not_timing (hti : r.timing = false) : beforeEdge w r = pulseClear r := by
  rcases beforeEdge_cases w r with ⟨hb, -⟩ | ⟨-, ht, -⟩ | ⟨-, ht, -⟩
  · exact hb
  · simp [hti] at ht
  · simp [hti] at ht

/-- In IDLE with the key up the next press is accepted, with or without a tick. -/
theorem acceptedPress_of_idle (hidle : r.control = .idle) (hq : r.keyQ = false) (hr : w.rst = false)
    (hk : w.key = true) : .acceptedPress ∈ internalOps w r := by
  obtain ⟨hti, hp⟩ := control_eq_idle.mp hidle
  rw [acceptedPress_mem_internalOps, beforeEdge_of_not_timing hti]
  exact ⟨hr, hk, hq, pressAccepted_eq_true.mpr ⟨hti, hp⟩⟩

end Machine

open Machine

/-- Settles O52: an accepted release ends in IDLE with the key up, where a press is accepted. -/
theorem pressAfterReleaseAccepted : Obligations.PressAfterReleaseAccepted := by
  intro c r q p hmode hrel hr hk
  obtain ⟨hidle, hq⟩ := stepRule_idle_of_acceptedRelease hmode hrel
  exact acceptedPress_of_idle hidle hq hr hk

/-- Settles O54: a TIMEOUT needs the timer running, which R26 then allows only with a latch, and by R30 item 1 the count was the
last below `T_MAX`. -/
theorem timeoutOnlyWhileHeld : Obligations.TimeoutOnlyWhileHeld := by
  intro c r w hinv hmode hout
  obtain ⟨-, -, hout⟩ := timeout_mem_internalOps.mp hout
  obtain ⟨hti, hle⟩ := tickTimesOut_eq_true.mp hout
  have hp : r.pressed = true := by
    by_contra hup
    have hallowed := hinv.controlAllowed.1 (control_eq_releasedTiming.mpr ⟨hti, by simpa using hup⟩)
    simp [hmode] at hallowed
  have hlt : r.elapsed.toNat < c.tMax := hinv.elapsedBelowMax
  have hmod := Nat.mod_le (r.elapsed.toNat + 1) (2 ^ c.ctrW)
  exact ⟨hp, hinv.latchedKeyDown hp, by omega⟩

end Sys2Proof

/-! PROOFS. A held press over any words (spec/41_timer_state_machine.md R56, R66): as long as no TIMEOUT and no release ends it,
the counter is the number of ticks since the press. -/

namespace Sys2Proof

namespace Machine

variable {c : Config} {w : In3} {r₀ r : Regs c} {m : Nat}

/-- Below `T_MAX` the counter is wide enough for one tick more (spec/00_scope.md R7 item 4). -/
theorem succ_mod_two_pow_ctrW (hwf : c.wf = true) {n : Nat} (hlt : n < c.tMax) : (n + 1) % 2 ^ c.ctrW = n + 1 := by
  obtain ⟨-, -, -, hMax, -⟩ := c.wf_iff.mp hwf
  exact Nat.mod_eq_of_lt (by omega)

/-- A step without a TIMEOUT has counted its tick, if it has one, before its edge phase (R56). -/
theorem beforeEdge_heldFrom (hwf : c.wf = true) (h : r₀.HeldFrom m r) (hlt : m < c.tMax) (hr : w.rst = false)
    (hno : .timeout ∉ internalOps w r) :
    r₀.HeldFrom (m + if w.tick then 1 else 0) (beforeEdge w r) ∧ m + (if w.tick then 1 else 0) < c.tMax := by
  obtain ⟨hq, hti, hp, rfl, hbuf, hcnt, hdisp⟩ := h
  cases ht : w.tick
  · have hb : beforeEdge w r = pulseClear r := by simp [beforeEdge, ht]
    rw [hb]
    exact ⟨⟨hq, hti, hp, rfl, hbuf, hcnt, hdisp⟩, hlt⟩
  · have hbelow : r.elapsed.toNat + 1 < c.tMax := by
      by_contra hle
      rw [not_lt, ← succ_mod_two_pow_ctrW hwf hlt] at hle
      exact hno (timeout_mem_internalOps.mpr ⟨hr, ht, tickTimesOut_eq_true.mpr ⟨hti, hle⟩⟩)
    obtain ⟨hb, hcount⟩ := beforeEdge_counted hwf ht hti hbelow
    rw [hb]
    exact ⟨⟨hq, hti, hp, hcount, hbuf, hcnt, hdisp⟩, hbelow⟩

/-- The key cannot move in a held press: a release edge would be accepted (R59). -/
theorem stepRule_heldFrom (h : r₀.HeldFrom m (beforeEdge w r)) (hr : w.rst = false)
    (hrel : .acceptedRelease ∉ internalOps w r) : r₀.HeldFrom m (stepRule w r) := by
  have hq : r.keyQ = true := by
    obtain ⟨-, -, hkey, -⟩ := beforeEdge_kept w r
    rw [← hkey, h.keyQ]
  have hk : w.key = r.keyQ := by
    rw [hq]
    by_contra hup
    exact hrel (acceptedRelease_mem_internalOps.mpr ⟨hr, by simpa using hup, hq, h.pressed⟩)
  rw [stepRule_steady hr hk, sampleKey_of_keyQ (h.keyQ.trans hq.symm)]
  exact h

theorem runWords_heldFrom (hwf : c.wf = true) (ws : List In3) (h : r₀.HeldFrom m r) (hlt : m < c.tMax)
    (hws : ∀ w ∈ ws, w.rst = false) (hno : .timeout ∉ runOps r ws) (hrel : .acceptedRelease ∉ runOps r ws) :
    r₀.HeldFrom (m + ws.countP (fun w => w.tick)) (runWords r ws) ∧ m + ws.countP (fun w => w.tick) < c.tMax := by
  induction ws generalizing r m with
  | nil => exact ⟨h, hlt⟩
  | cons w ws ih =>
    obtain ⟨hr, hws⟩ := List.forall_mem_cons.mp hws
    rw [runOps, List.mem_append, not_or] at hno hrel
    obtain ⟨hb, hlt'⟩ := beforeEdge_heldFrom hwf h hlt hr hno.1
    rw [List.countP_cons, Nat.add_comm (ws.countP _), ← Nat.add_assoc]
    exact ih (stepRule_heldFrom hb hr hrel.1) hlt' hws hno.2 hrel.2

/-- An accepted press begins a hold of 0 ticks, whatever its own step did before (R58). -/
theorem stepRule_heldFrom_of_acceptedPress (h : .acceptedPress ∈ internalOps w r) :
    (stepRule w r).HeldFrom 0 (stepRule w r) := by
  obtain ⟨hr, hk, hq, hacc⟩ := acceptedPress_mem_internalOps.mp h
  have hstep : stepRule w r = sampleKey true (acceptPress (beforeEdge w r)) := by
    simp [stepRule_pressEdge hr hk hq, pressPhase, hacc]
  constructor <;> simp [hstep]

end Machine

open Machine

/-- Settles O48: the words between keep the hold that the press began, and the release step counts its own tick before its
release phase. -/
theorem releaseClassifiesTicksSincePress : Obligations.ReleaseClassifiesTicksSincePress := by
  intro c r p q held hwf hpress hws hno hrel _
  obtain ⟨hheld, hq⟩ := List.forall_mem_append.mp hws
  rw [runOps_append, List.mem_append, not_or] at hno
  have hbegin := stepRule_heldFrom_of_acceptedPress hpress
  obtain ⟨h, hlt⟩ := runWords_heldFrom hwf held hbegin (tMax_pos_of_wf hwf) hheld hno.1 hrel
  have hnoq : .timeout ∉ internalOps q (runWords (stepRule p r) held) := by
    simpa [runOps] using hno.2
  obtain ⟨hb, -⟩ := beforeEdge_heldFrom hwf h hlt (hq q (List.mem_singleton_self q)) hnoq
  rw [hb.elapsed, List.countP_append, List.countP_singleton, Nat.zero_add]

end Sys2Proof

/-! PROOFS. A key held past `T_MAX` (spec/41_timer_state_machine.md R56, R57): one TIMEOUT, and then ticks that are ignored. -/

namespace Sys2Proof

namespace Machine

variable {c : Config} {w : In3} {r : Regs c}

/-- A step with a steady key leaves what the phases before the edge leave. -/
theorem stepRule_steady_eq_beforeEdge (hr : w.rst = false) (hk : w.key = r.keyQ) : stepRule w r = beforeEdge w r := by
  obtain ⟨-, -, hkey, -⟩ := beforeEdge_kept w r
  rw [stepRule_steady hr hk, sampleKey_of_keyQ hkey]

/-- Not timing and with the key steady, a run changes nothing but the pulses (spec/60_exceptions.md R89). -/
theorem pulseClear_runWords_steady (ws : List In3) (hti : r.timing = false)
    (hws : ∀ w ∈ ws, w.rst = false ∧ w.key = r.keyQ) : pulseClear (runWords r ws) = pulseClear r := by
  induction ws generalizing r with
  | nil => rfl
  | cons w ws ih =>
    obtain ⟨⟨hr, hk⟩, hws⟩ := List.forall_mem_cons.mp hws
    have hstep : stepRule w r = pulseClear r := by
      rw [stepRule_steady_eq_beforeEdge hr hk, beforeEdge_of_not_timing hti]
    rw [runWords, hstep, ih (r := pulseClear r) hti hws]
    rfl

/-- A held key counts up to `T_MAX` and times out; all that the later ticks change is the display mark. -/
theorem pulseClear_runWords_ticks_timedOut (hwf : c.wf = true) (hti : r.timing = true) (hq : r.keyQ = true)
    (hlt : r.elapsed.toNat < c.tMax) (m : Nat) (hm : c.tMax ≤ r.elapsed.toNat + m) :
    pulseClear (runWords r (List.replicate m (In3.tickWord true))) = pulseClear (timeout r) := by
  induction m generalizing r with
  | zero => omega
  | succ m ih =>
    rw [List.replicate_succ, runWords, stepRule_steady_eq_beforeEdge (w := In3.tickWord true) rfl hq.symm]
    by_cases hbelow : r.elapsed.toNat + 1 < c.tMax
    · obtain ⟨hb, hcount⟩ := beforeEdge_counted (w := In3.tickWord true) hwf rfl hti hbelow
      rw [hb]
      exact ih hti hq (by omega) (by omega)
    · rw [not_lt, ← succ_mod_two_pow_ctrW hwf hlt] at hbelow
      have hb : beforeEdge (In3.tickWord true) r = timeout (countTick (pulseClear r)) :=
        tickPhase_timedOut (w := pulseClear r) hti hbelow
      have hticks : ∀ w ∈ List.replicate m (In3.tickWord true), w.rst = false ∧ w.key = r.keyQ := by
        simp [In3.tickWord, hq]
      rw [hb]
      exact pulseClear_runWords_steady (r := timeout (countTick (pulseClear r))) _ rfl hticks

end Machine

open Machine

/-- Settles O50: but for the pulses the run leaves the registers of a TIMEOUT, and a release needs a latch. -/
theorem heldKeyTimesOut : Obligations.HeldKeyTimesOut := by
  intro c r m hwf hti hq hlt hm
  have h := pulseClear_runWords_ticks_timedOut hwf hti hq hlt m hm
  rw [Trace.words_line_nil, TraceOp.words, repeatWords_singleton]
  generalize runWords r (List.replicate m (In3.tickWord true)) = t at h ⊢
  have hp : t.pressed = (!c.timeoutClearsLatch && r.pressed) :=
    (congrArg Regs.pressed h).trans (pressedAfterTimeout_eq r.pressed)
  have hbuf : t.buf = r.buf := by simpa using congrArg Regs.buf h
  have hcnt : t.cnt = r.cnt := by simpa using congrArg Regs.cnt h
  refine ⟨congrArg Regs.timing h, congrArg Regs.elapsed h, congrArg Regs.disp h, hbuf, hcnt, hp, fun hmode hrel => ?_⟩
  obtain ⟨-, -, -, hlatched⟩ := acceptedRelease_mem_internalOps.mp hrel
  simp [beforeEdge_pressed hlatched, hmode] at hp

end Sys2Proof

/-! PROOFS. The symbols of a sequence of holds (spec/43_symbol_buffer.md R73, spec/90_conflicts.md C6): only the release of a hold
appends, and with `RELEASE_STOPS_TIMING = 1` each hold and the gap after it end in IDLE with the key up. -/

namespace Sys2Proof

namespace Machine

variable {c : Config} {w : In3} {r v : Regs c}

/-- The symbols that holds of the given lengths append (R68, R69). -/
def holdSymbols (c : Config) (ns : List Nat) : List Bool :=
  (ns.filter (fun n => decide (c.tLow ≤ n ∧ n ≤ c.tHigh))).map (fun n => decide (c.tMid < n))

theorem holdSymbols_cons (n : Nat) (ns : List Nat) : holdSymbols c (n :: ns) = holdSymbols c [n] ++ holdSymbols c ns := by
  rw [← List.singleton_append, holdSymbols, List.filter_append, List.map_append]
  rfl

theorem holdSymbols_of_append {n : Nat} (hlow : c.tLow ≤ n) (hhigh : n ≤ c.tHigh) :
    holdSymbols c [n] = [decide (c.tMid < n)] := by
  simp [holdSymbols, hlow, hhigh]

theorem holdSymbols_of_out_of_range {n : Nat} (h : n < c.tLow ∨ c.tHigh < n) : holdSymbols c [n] = [] := by
  have hout : ¬ (c.tLow ≤ n ∧ n ≤ c.tHigh) := by omega
  simp [holdSymbols, hout]


/-- The APPENDs of an accepted release are the symbol of the measured duration. -/
theorem appendsOf_releaseOps {w : Regs c} (hwf : c.wf = true) (hp : w.pressed = true) :
    appendsOf (releaseOps w) = holdSymbols c [w.elapsed.toNat] := by
  obtain ⟨⟨-, -, hRise⟩, -⟩ := c.wf_iff.mp hwf
  have hlong : appendsOf (if longOf c w.elapsed then [.showError] else []) = [] := by
    split <;> rfl
  rw [releaseOps_accepted w hp, appendsOf_append, appendsOf_append, hlong]
  rcases classOf_cases w.elapsed with ⟨hc, h1⟩ | ⟨hc, h1, h2⟩ | ⟨hc, h1, h2, h3⟩ | ⟨hc, h1, h2, h3⟩ <;> rw [hc]
  · rw [holdSymbols_of_out_of_range (.inl h1)]
    rfl
  · rw [holdSymbols_of_append h1 (by omega), decide_eq_false (by omega)]
    rfl
  · rw [holdSymbols_of_append h1 h3, decide_eq_true h2]
    rfl
  · rw [holdSymbols_of_out_of_range (.inr h3)]
    rfl

/-- Only a release edge can append. -/
theorem appendsOf_internalOps_of_no_release (h : w.key = false → r.keyQ = false) : appendsOf (internalOps w r) = [] := by
  have htick : appendsOf (if w.tick then tickOps r else []) = [] := by
    split
    · exact appendsOf_tickOps r
    · rfl
  cases hr : w.rst
  · rcases stepRule_cases w r hr with ⟨-, -, -, hops⟩ | ⟨hk, hq, -, -⟩ | ⟨-, -, hops⟩
    · rw [hops, appendsOf_append, htick, appendsOf_pressOps]
      rfl
    · simp [h hk] at hq
    · rw [hops, htick]
  · rw [(stepRule_rst w r hr).2]
    rfl

/-- A run at one key level appends nothing, unless it begins with a release edge. -/
theorem appendsOf_runOps_steady {k : Bool} (ws : List In3) (hws : ∀ w ∈ ws, w.key = k) (hk : k = false → r.keyQ = false) :
    appendsOf (runOps r ws) = [] := by
  induction ws generalizing r with
  | nil => rfl
  | cons w ws ih =>
    obtain ⟨hw, hws⟩ := List.forall_mem_cons.mp hws
    have hnext : k = false → (stepRule w r).keyQ = false := fun hk => by rw [stepRule_keyQ, hw, hk]
    rw [runOps, appendsOf_append, ih hws hnext, appendsOf_internalOps_of_no_release fun hup => hk (hw ▸ hup)]
    rfl

/-- `UP` after a key that was down performs the operations of a release phase. -/
theorem internalOps_up (hq : v.keyQ = true) : internalOps (In3.idleWord false) v = releaseOps (pulseClear v) := by
  simp [internalOps, beforeEdge, In3.idleWord, riseOf, fallOf, hq]

/-- `v` is what a hold of `n` ticks leaves for its release: below `T_MAX` a press of `n` ticks, from `T_MAX` on what the TIMEOUT
left of it. -/
structure Regs.HoldEnd (n : Nat) (v : Regs c) : Prop where
  keyQ    : v.keyQ = true
  outcome : (v.pressed = true ∧ v.elapsed.toNat = n) ∨ (c.tMax ≤ n ∧ v.timing = false ∧ v.elapsed = 0)

theorem runWords_ticks_holdEnd (hwf : c.wf = true) (h : r.HeldFrom 0 v) (n : Nat) :
    (runWords v (List.replicate n (In3.tickWord true))).HoldEnd n := by
  by_cases hlt : n < c.tMax
  · obtain ⟨hkey, -, hp, hel, -⟩ := runWords_ticks_heldFrom hwf h n (by omega)
    exact ⟨hkey, .inl ⟨hp, by omega⟩⟩
  · have hout := pulseClear_runWords_ticks_timedOut hwf h.timing h.keyQ (h.elapsed ▸ tMax_pos_of_wf hwf) n (by omega)
    have hkey := (congrArg Regs.keyQ hout).trans h.keyQ
    exact ⟨hkey, .inr ⟨by omega, congrArg Regs.timing hout, congrArg Regs.elapsed hout⟩⟩

/-- With `RELEASE_STOPS_TIMING = 1` a hold ends in IDLE, timed out or not (spec/90_conflicts.md C6). -/
theorem stepRule_up_idle {n : Nat} (hmode : c.releaseStopsTiming = true) (h : v.HoldEnd n) :
    (stepRule (In3.idleWord false) v).control = .idle := by
  rw [stepRule_releaseEdge rfl rfl h.keyQ]
  exact releasePhase_idle (w := pulseClear v) hmode (h.outcome.imp And.left fun hout => hout.2.1)

/-- A release appends the symbol of a hold that was not timed out, and of a timed-out one nothing: 0 ticks are noise (R57). -/
theorem appendsOf_up {n : Nat} (hwf : c.wf = true) (h : v.HoldEnd n) :
    appendsOf (internalOps (In3.idleWord false) v) = holdSymbols c [n] := by
  obtain ⟨⟨hlow, -⟩, -, hMax, -⟩ := c.wf_iff.mp hwf
  rw [internalOps_up h.keyQ]
  rcases h.outcome with ⟨hp, rfl⟩ | ⟨hle, -, hzero⟩
  · exact appendsOf_releaseOps (w := pulseClear v) hwf hp
  · rw [holdSymbols_of_out_of_range (n := n) (.inr (by omega))]
    cases hp : v.pressed
    · rw [releaseOps_rejected (pulseClear v) hp]
      rfl
    · rw [appendsOf_releaseOps (w := pulseClear v) hwf hp, pulseClear_elapsed, hzero]
      exact holdSymbols_of_out_of_range (.inl (by simpa using hlow))

/-- A hold from IDLE with the key up appends its symbol and ends there again. -/
theorem runWords_hold_idle (hwf : c.wf = true) (hmode : c.releaseStopsTiming = true) (hidle : r.control = .idle)
    (hq : r.keyQ = false) (n : Nat) :
    (runWords r (TraceOp.hold n).words).control = .idle ∧ (runWords r (TraceOp.hold n).words).keyQ = false ∧
      appendsOf (runOps r (TraceOp.hold n).words) = holdSymbols c [n] := by
  have hwords : (TraceOp.hold n).words =
      (In3.idleWord true :: List.replicate n (In3.tickWord true)) ++ [In3.idleWord false] := rfl
  have hheld : appendsOf (runOps r (In3.idleWord true :: List.replicate n (In3.tickWord true))) = [] :=
    appendsOf_runOps_steady (k := true) _ (by simp [In3.idleWord, In3.tickWord]) (by simp)
  have hend := runWords_ticks_holdEnd hwf (stepRule_down_heldFrom hidle hq) n
  rw [runWords_hold, hwords, runOps_append, appendsOf_append, hheld, List.nil_append, runOps, runOps, List.append_nil]
  exact ⟨stepRule_up_idle hmode hend, stepRule_keyQ _ _, appendsOf_up hwf hend⟩

/-- A gap in IDLE with the key up appends nothing and stays there. -/
theorem runWords_gap_idle (hidle : r.control = .idle) (hq : r.keyQ = false) (n : Nat) :
    (runWords r (TraceOp.gap n).words).control = .idle ∧ (runWords r (TraceOp.gap n).words).keyQ = false ∧
      appendsOf (runOps r (TraceOp.gap n).words) = [] := by
  have hws : ∀ w ∈ (TraceOp.gap n).words, w.rst = false ∧ w.key = false := by
    simp [TraceOp.words, In3.tickWord]
  have h := pulseClear_runWords_steady (r := r) (TraceOp.gap n).words (control_eq_idle.mp hidle).1 (by rwa [hq])
  exact ⟨(congrArg Regs.control h).trans hidle, (congrArg Regs.keyQ h).trans hq,
    appendsOf_runOps_steady _ (fun w hw => (hws w hw).2) fun _ => hq⟩

end Machine

open Machine

/-- Settles O58, by induction on the holds: each one and the gap after it go from IDLE with the key up to IDLE with the key
up. -/
theorem holdsAppendTheirSymbols : Obligations.HoldsAppendTheirSymbols := by
  intro c r presses hwf hmode hidle hq
  show _ ∧ _ ∧ _ = holdSymbols c (presses.map Prod.fst)
  induction presses generalizing r with
  | nil => exact ⟨hidle, hq, rfl⟩
  | cons p ps ih =>
    obtain ⟨hidle₁, hq₁, hsym⟩ := runWords_hold_idle hwf hmode hidle hq p.1
    obtain ⟨hidle₂, hq₂, hnone⟩ := runWords_gap_idle hidle₁ hq₁ p.2
    obtain ⟨hidle₃, hq₃, hrest⟩ := ih _ hidle₂ hq₂
    rw [List.flatMap_cons, runWords_append, runWords_append, runOps_append, runOps_append, runWords_append,
      appendsOf_append, appendsOf_append, hsym, hnone, hrest, List.append_nil, List.map_cons]
    exact ⟨hidle₃, hq₃, (holdSymbols_cons p.1 _).symm⟩

end Sys2Proof

/-! PROOFS. The classifier (spec/42_symbol_classifier.md R68, R71) and how long the error pattern it shows stays
(spec/70_reset_and_hazards.md R97 item 3). -/

namespace Sys2Proof

namespace Machine

variable {c : Config} {w : In3} {r : Regs c}

/-- `n` is a duration of the class: the table of R68. -/
def SymbolClass.Covers (c : Config) (n : Nat) : SymbolClass → Prop
  | .noise => n < c.tLow
  | .dot   => c.tLow ≤ n ∧ n ≤ c.tMid
  | .dash  => c.tLow ≤ n ∧ c.tMid < n ∧ n ≤ c.tHigh
  | .over  => c.tLow ≤ n ∧ c.tMid < n ∧ c.tHigh < n

/-- The ranges of the classes are disjoint, whatever the thresholds. -/
theorem SymbolClass.Covers.unique {n : Nat} {a b : SymbolClass} (ha : a.Covers c n) (hb : b.Covers c n) : a = b := by
  cases a <;> cases b <;> simp only [SymbolClass.Covers, reduceCtorEq] at ha hb ⊢ <;> omega

theorem classOf_covers (v : BitVec c.ctrW) : (classOf c v).Covers c v.toNat := by
  rcases classOf_cases v with ⟨h, hrange⟩ | ⟨h, hrange⟩ | ⟨h, hrange⟩ | ⟨h, hrange⟩ <;> rw [h] <;> exact hrange

theorem classOf_eq_iff {v : BitVec c.ctrW} {cls : SymbolClass} : classOf c v = cls ↔ cls.Covers c v.toNat :=
  ⟨fun h => h ▸ classOf_covers v, (classOf_covers v).unique⟩

/-- `T_MID <= T_LONG` puts every long press above the dots (R68, spec/00_scope.md R7 item 2). -/
theorem not_noise_or_dot_of_longOf {v : BitVec c.ctrW} (hwf : c.wf = true) (hlong : longOf c v = true) :
    classOf c v ≠ .noise ∧ classOf c v ≠ .dot := by
  obtain ⟨⟨-, hLowMid, -⟩, ⟨hMidLong, -⟩, -⟩ := c.wf_iff.mp hwf
  rw [longOf_eq_true] at hlong
  simp only [ne_eq, classOf_eq_iff, SymbolClass.Covers]
  omega

/-- `T_LONG < T_HIGH` makes every OVER a long press (R68, spec/00_scope.md R7 item 2). -/
theorem longOf_of_over {v : BitVec c.ctrW} (hwf : c.wf = true) (hover : classOf c v = .over) : longOf c v = true := by
  obtain ⟨-, ⟨-, hLongHigh⟩, -⟩ := c.wf_iff.mp hwf
  obtain ⟨-, -, hHigh⟩ := classOf_eq_iff.mp hover
  exact longOf_eq_true.mpr (hLongHigh.trans hHigh)

/-- Before the edge phase only a TIMEOUT writes the display (R57). -/
theorem beforeEdge_disp_of_no_timeout (hr : w.rst = false) (hno : .timeout ∉ internalOps w r) :
    (beforeEdge w r).disp = r.disp := by
  rcases beforeEdge_cases w r with ⟨h, -⟩ | ⟨-, -, -, h, -⟩ | ⟨ht, hti, hle, -⟩
  · rw [h, pulseClear_disp]
  · rw [h, countTick_disp, pulseClear_disp]
  · exact absurd (timeout_mem_internalOps.mpr ⟨hr, ht, tickTimesOut_eq_true.mpr ⟨hti, hle⟩⟩) hno

/-- A release phase that shows a pattern shows the error pattern (R69). -/
theorem releasePhase_disp_error {v : Regs c} (h : v.disp = c.patError) : (releasePhase v).disp = c.patError := by
  have he := releasePhase_effect v
  cases hp : v.pressed
  · rwa [he.rejected hp]
  · by_cases hs : ShowsError c v.elapsed.toNat
    · exact (he.shown hp hs).1
    · rw [(he.unshown hp hs).1, h]

/-- A step without a reset and without a TIMEOUT keeps the error pattern. -/
theorem stepRule_disp_error (hr : w.rst = false) (hno : .timeout ∉ internalOps w r) (h : r.disp = c.patError) :
    (stepRule w r).disp = c.patError := by
  have hb : (beforeEdge w r).disp = c.patError := (beforeEdge_disp_of_no_timeout hr hno).trans h
  rcases stepRule_cases w r hr with ⟨-, -, he, -⟩ | ⟨-, -, he, -⟩ | ⟨-, he, -⟩ <;> rw [he, sampleKey_disp]
  · obtain ⟨-, -, hdisp, -⟩ := pressPhase_kept (beforeEdge w r)
    exact hdisp.trans hb
  · exact releasePhase_disp_error hb
  · exact hb

end Machine

open Machine

/-- Settles O53, by induction on the words of the run: no step of it writes another pattern. -/
theorem errorPatternPersists : Obligations.ErrorPatternPersists := by
  intro c r ws h hws hno
  induction ws generalizing r with
  | nil => exact h
  | cons w ws ih =>
    obtain ⟨hr, hws⟩ := List.forall_mem_cons.mp hws
    rw [runOps, List.mem_append, not_or] at hno
    exact ih _ (stepRule_disp_error hr hno.1 h) hws hno.2

/-- Settles O29: each class by its range of durations, the long bit by its comparison, R68's consequence from the order of the
thresholds in R7, and the boundary table by evaluation. -/
theorem classifyThresholds : Obligations.ClassifyThresholds :=
  ⟨fun _ _ => ⟨classOf_eq_iff, classOf_eq_iff, classOf_eq_iff, classOf_eq_iff, longOf_eq_true⟩,
    fun _ _ hwf => ⟨not_noise_or_dot_of_longOf hwf, longOf_of_over hwf⟩, by decide⟩

/-- Settles O30: the codes are the definitions' own values. -/
theorem classAndErrorCodes : Obligations.ClassAndErrorCodes :=
  ⟨rfl, rfl, rfl, rfl, rfl, rfl, rfl⟩

end Sys2Proof

/-! PROOFS. The symbol buffer (spec/43_symbol_buffer.md): what one APPEND does to it, which steps run one, and the bits the
count cannot reach. -/

namespace Sys2Proof

namespace Machine

variable {c : Config}

/-- A count past the width of the buffer stores no bit (R74). -/
theorem append_buf_of_full (b : Bool) {w : Regs c} (h : c.bufW ≤ w.cnt.toNat) : (append b w).buf = w.buf :=
  if_pos (atLeast_eq_true.mpr h)

/-- The count after an APPEND, modulo `2^CNT_W` (R73). -/
theorem append_cnt_toNat (b : Bool) (w : Regs c) : (append b w).cnt.toNat = (w.cnt.toNat + 1) % 2 ^ c.cntW :=
  appendAll_cnt [b] w

theorem reset_highBitsClear (k : Bool) : (Regs.reset c k).HighBitsClear := fun _ _ => BitVec.getLsbD_zero

/-- An APPEND assigns the bit at the count, which is below `2^CNT_W`. -/
theorem append_highBitsClear (b : Bool) {w : Regs c} (h : w.HighBitsClear) : (append b w).HighBitsClear := by
  intro i hi
  by_cases hlt : i < c.bufW
  · have hne : i ≠ w.cnt.toNat := (w.cnt.isLt.trans_le hi).ne'
    rw [append_getLsbD b w i hlt, if_neg hne, h i hi]
  · exact BitVec.getLsbD_of_ge _ i (Nat.le_of_not_lt hlt)

theorem appendAll_highBitsClear (bs : List Bool) {w : Regs c} (h : w.HighBitsClear) : (appendAll bs w).HighBitsClear := by
  induction bs generalizing w with
  | nil => exact h
  | cons b bs ih => exact ih (append_highBitsClear b h)

/-- A step writes the buffer only as a reset or as its APPENDs do. -/
theorem stepRule_highBitsClear (w : In3) {r : Regs c} (h : r.HighBitsClear) : (stepRule w r).HighBitsClear := by
  cases hr : w.rst
  · obtain ⟨hbuf, -⟩ := Prod.mk.inj (stepRule_symbols w r hr)
    rw [Regs.HighBitsClear, hbuf]
    exact appendAll_highBitsClear _ h
  · rw [(stepRule_rst w r hr).1]
    exact reset_highBitsClear w.key

/-- An accepted release runs the APPEND of its class, if the class has one (spec/42_symbol_classifier.md R69). -/
theorem appendsOf_releaseOps_accepted {w : Regs c} (hp : w.pressed = true) :
    appendsOf (releaseOps w) = (classOf c w.elapsed).appendOperand.toList := by
  rw [releaseOps_accepted w hp]
  cases classOf c w.elapsed <;> cases longOf c w.elapsed <;> rfl

/-- On a release edge only the release phase appends. -/
theorem appendsOf_internalOps_releaseEdge {w : In3} {r : Regs c} (hr : w.rst = false) (hk : w.key = false)
    (hq : r.keyQ = true) : appendsOf (internalOps w r) = appendsOf (releaseOps (beforeEdge w r)) := by
  have hops : internalOps w r = (if w.tick then tickOps r else []) ++ releaseOps (beforeEdge w r) := by
    simp [internalOps, riseOf, fallOf, hr, hk, hq]
  rw [hops, appendsOf_append]
  cases w.tick
  · rfl
  · rw [if_pos rfl, appendsOf_tickOps, List.nil_append]

/-- A step runs no APPEND, or one in an accepted release. -/
theorem appendsOf_internalOps_cases {w : In3} {r : Regs c} (hr : w.rst = false) :
    appendsOf (internalOps w r) = [] ∨
      ∃ b, appendsOf (internalOps w r) = [b] ∧ .acceptedRelease ∈ internalOps w r := by
  by_cases hedge : w.key = false → r.keyQ = false
  · exact .inl (appendsOf_internalOps_of_no_release hedge)
  · obtain ⟨hk, hq⟩ : w.key = false ∧ r.keyQ = true := by simpa using hedge
    rw [appendsOf_internalOps_releaseEdge hr hk hq]
    cases hp : (beforeEdge w r).pressed
    · exact .inl (by rw [releaseOps_rejected _ hp]; rfl)
    · rw [appendsOf_releaseOps_accepted hp]
      cases (classOf c (beforeEdge w r).elapsed).appendOperand with
      | none => exact .inl rfl
      | some b => exact .inr ⟨b, rfl, acceptedRelease_mem_internalOps.mpr ⟨hr, hk, hq, hp⟩⟩

end Machine

open Machine

/-- Settles O31: the frame is APPEND's own record update; the assigned bit and the full buffer are its two cases. -/
theorem appendResult : Obligations.AppendResult :=
  fun _ b w => ⟨rfl, append_cnt_toNat b w, fun _ => append_getLsbD b w, append_buf_of_full b⟩

/-- Settles O32: the count by `appendAll_cnt`, the next bit by APPEND's own rule at that count, and the unreachable bits by
induction over the appends from the reset buffer. -/
theorem appendOverflow : Obligations.AppendOverflow := by
  intro c k bs b r
  have hcnt : r.cnt.toNat = bs.length % 2 ^ c.cntW := (appendAll_cnt bs (Regs.reset c k)).trans (by simp)
  refine ⟨hcnt, ?_, fun i hi => ?_, appendAll_highBitsClear bs (reset_highBitsClear k), rfl⟩
  · rw [append_cnt_toNat, hcnt, Nat.mod_add_mod]
  · rw [← hcnt]
    exact append_getLsbD b r i hi

/-- Settles O33: a step leaves in the buffer what its APPENDs leave, and it runs none or one. -/
theorem noStepClearsBuffer : Obligations.NoStepClearsBuffer := by
  intro c w r
  refine ⟨fun hr => ?_, fun hr => ?_⟩
  · rw [(stepRule_rst w r hr).1]
    exact ⟨rfl, rfl⟩
  · obtain ⟨hbuf, hcnt⟩ := Prod.mk.inj (stepRule_symbols w r hr)
    rcases appendsOf_internalOps_cases (r := r) hr with hnone | ⟨b, hone, hrel⟩
    · rw [hnone] at hbuf hcnt
      exact .inl ⟨hnone, hbuf, hcnt⟩
    · rw [hone] at hbuf hcnt
      refine .inr ⟨b, hone, hrel, hcnt, fun i hi => ?_⟩
      rw [hbuf]
      exact append_getLsbD b r i hi

/-- Settles O44: a next state's registers are the step function's, which keeps the bits. -/
theorem stepKeepsHighBitsClear : Obligations.StepKeepsHighBitsClear := by
  intro s t h hstep
  obtain ⟨w, rest, -, -, rfl⟩ := step_next hstep
  exact stepRule_highBitsClear w h

end Sys2Proof

/-! PROOFS. No step stops the machine (spec/60_exceptions.md R77), a steady step while not timing only drops the pulses (R89), and
the error classes with what a step records of each (R78). -/

namespace Sys2Proof

namespace Machine

variable {c : Config} {w : In3} {r : Regs c}

/-- Not timing and with the key steady, a step performs PULSE_CLEAR and nothing else. -/
theorem stepRule_steady_of_not_timing (hti : r.timing = false) (hr : w.rst = false) (hk : w.key = r.keyQ) :
    stepRule w r = pulseClear r := by
  rw [stepRule_steady_eq_beforeEdge hr hk, beforeEdge_of_not_timing hti]

/-- Registers whose pulses have dropped stay as they are. -/
theorem runWords_pulseClear_steady (ws : List In3) (hti : r.timing = false)
    (hws : ∀ w ∈ ws, w.rst = false ∧ w.key = r.keyQ) : runWords (pulseClear r) ws = pulseClear r := by
  induction ws with
  | nil => rfl
  | cons w ws ih =>
    obtain ⟨⟨hr, hk⟩, hws⟩ := List.forall_mem_cons.mp hws
    have hstep : stepRule w (pulseClear r) = pulseClear r := stepRule_steady_of_not_timing (r := pulseClear r) hti hr hk
    rw [runWords, hstep, ih hws]

/-- Each class has one cause: the TIMEOUT of the tick phase, or an accepted release of a duration outside `[T_LOW, T_LONG]`. -/
theorem mem_raisedClasses {e : ErrorClass} :
    e ∈ raisedClasses w r ↔
      (e = .evtTimeout ∧ .timeout ∈ internalOps w r) ∨
        (.acceptedRelease ∈ internalOps w r ∧
          ((e = .errNoise ∧ (beforeEdge w r).elapsed.toNat < c.tLow) ∨
            (e = .errLong ∧ c.tLong < (beforeEdge w r).elapsed.toNat))) := by
  rw [timeout_mem_internalOps, acceptedRelease_mem_internalOps, ← classOf_eq_noise, ← longOf_eq_true]
  cases hr : w.rst
  · cases e <;> simp [raisedClasses, fallOf, hr, and_assoc]
  · simp [raisedClasses, hr]

theorem errNoise_mem_raisedClasses :
    .errNoise ∈ raisedClasses w r ↔ .acceptedRelease ∈ internalOps w r ∧ (beforeEdge w r).elapsed.toNat < c.tLow := by
  simp [mem_raisedClasses]

theorem errLong_mem_raisedClasses :
    .errLong ∈ raisedClasses w r ↔ .acceptedRelease ∈ internalOps w r ∧ c.tLong < (beforeEdge w r).elapsed.toNat := by
  simp [mem_raisedClasses]

theorem evtTimeout_mem_raisedClasses : .evtTimeout ∈ raisedClasses w r ↔ .timeout ∈ internalOps w r := by
  simp [mem_raisedClasses]

/-- An accepted release of an erroneous duration shows the error pattern (R69). -/
theorem stepRule_showsError (h : .acceptedRelease ∈ internalOps w r) (hs : ShowsError c (beforeEdge w r).elapsed.toNat) :
    (stepRule w r).disp = c.patError ∧ (stepRule w r).dispWe = true := by
  obtain ⟨hr, hk, hq, hp⟩ := acceptedRelease_mem_internalOps.mp h
  rw [stepRule_releaseEdge hr hk hq]
  exact (releasePhase_effect (beforeEdge w r)).shown hp hs

/-- An accepted release appends the symbol of its duration (R69). -/
theorem appendsOf_internalOps_of_acceptedRelease (hwf : c.wf = true) (h : .acceptedRelease ∈ internalOps w r) :
    appendsOf (internalOps w r) = holdSymbols c [(beforeEdge w r).elapsed.toNat] := by
  obtain ⟨hr, hk, hq, hp⟩ := acceptedRelease_mem_internalOps.mp h
  rw [appendsOf_internalOps_releaseEdge hr hk hq, appendsOf_releaseOps hwf hp]

theorem appendsOf_internalOps_of_no_acceptedRelease (hr : w.rst = false) (h : .acceptedRelease ∉ internalOps w r) :
    appendsOf (internalOps w r) = [] := by
  rcases appendsOf_internalOps_cases (r := r) hr with hnone | ⟨b, -, hrel⟩
  · exact hnone
  · exact absurd hrel h

/-- A step without an APPEND keeps the symbol buffer. -/
theorem stepRule_buffer_kept (hr : w.rst = false) (h : appendsOf (internalOps w r) = []) :
    (stepRule w r).buf = r.buf ∧ (stepRule w r).cnt = r.cnt := by
  have hsym := stepRule_symbols w r hr
  rw [h] at hsym
  exact Prod.mk.inj hsym

theorem beforeEdge_of_timeout (h : .timeout ∈ internalOps w r) : beforeEdge w r = timeout (countTick (pulseClear r)) := by
  obtain ⟨-, ht, hout⟩ := timeout_mem_internalOps.mp h
  obtain ⟨hti, hle⟩ := tickTimesOut_eq_true.mp hout
  rcases beforeEdge_cases w r with ⟨-, hno, -⟩ | ⟨-, -, hlt, -⟩ | ⟨-, -, -, hb, -⟩
  · simp [ht, hti] at hno
  · omega
  · exact hb

/-- In the edge phase only an accepted release writes the display. -/
theorem stepRule_display_of_no_acceptedRelease (hr : w.rst = false) (h : .acceptedRelease ∉ internalOps w r) :
    (stepRule w r).disp = (beforeEdge w r).disp ∧ (stepRule w r).dispWe = (beforeEdge w r).dispWe := by
  rcases stepRule_cases w r hr with ⟨-, -, he, -⟩ | ⟨hk, hq, he, -⟩ | ⟨-, he, -⟩ <;> rw [he]
  · obtain ⟨-, -, hdisp, hwe⟩ := pressPhase_kept (beforeEdge w r)
    exact ⟨hdisp, hwe⟩
  · rcases releasePhase_cases (beforeEdge w r) with ⟨-, hkeep⟩ | ⟨hp, -⟩
    · rw [hkeep]
      exact ⟨rfl, rfl⟩
    · exact absurd (acceptedRelease_mem_internalOps.mpr ⟨hr, hk, hq, hp⟩) h
  · exact ⟨rfl, rfl⟩

/-- A press accepted after the TIMEOUT clears the counter again (R58). -/
theorem stepRule_elapsed_of_timeout (h : .timeout ∈ internalOps w r) : (stepRule w r).elapsed = 0 := by
  by_cases hpress : .acceptedPress ∈ internalOps w r
  · exact BitVec.eq_of_toNat_eq (stepRule_heldFrom_of_acceptedPress hpress).elapsed
  · exact (stepRule_stopped_of_stop (.inr h) hpress).2

/-- The TIMEOUT has cleared the counter, so a release in its step is noise (R64): a timeout alone accepts none. -/
theorem no_acceptedRelease_of_evtTimeout_alone (hwf : c.wf = true) (h : raisedClasses w r = [.evtTimeout]) :
    .acceptedRelease ∉ internalOps w r := by
  intro hrel
  obtain ⟨⟨hLow, -⟩, -⟩ := c.wf_iff.mp hwf
  have hout : .timeout ∈ internalOps w r := evtTimeout_mem_raisedClasses.mp (by simp [h])
  have hnoise : .errNoise ∈ raisedClasses w r :=
    errNoise_mem_raisedClasses.mpr ⟨hrel, by simpa [beforeEdge_of_timeout hout] using hLow⟩
  simp [h] at hnoise

theorem errNoise_recorded (hwf : c.wf = true) (h : .errNoise ∈ raisedClasses w r) :
    (stepRule w r).disp = c.patError ∧ (stepRule w r).dispWe = true ∧
      (stepRule w r).buf = r.buf ∧ (stepRule w r).cnt = r.cnt := by
  obtain ⟨hrel, hlow⟩ := errNoise_mem_raisedClasses.mp h
  obtain ⟨hr, -⟩ := acceptedRelease_mem_internalOps.mp hrel
  obtain ⟨hdisp, hwe⟩ := stepRule_showsError hrel (.inl hlow)
  have hnone : appendsOf (internalOps w r) = [] :=
    (appendsOf_internalOps_of_acceptedRelease hwf hrel).trans (holdSymbols_of_out_of_range (.inl hlow))
  exact ⟨hdisp, hwe, stepRule_buffer_kept hr hnone⟩

/-- `T_MID <= T_LONG` makes a long press up to `T_HIGH` a dash (R68). -/
theorem errLong_recorded (hwf : c.wf = true) (h : .errLong ∈ raisedClasses w r) :
    (stepRule w r).disp = c.patError ∧ (stepRule w r).dispWe = true ∧
      ((beforeEdge w r).elapsed.toNat ≤ c.tHigh →
        appendsOf (internalOps w r) = [true] ∧ (stepRule w r).cnt = r.cnt + 1) := by
  obtain ⟨⟨-, hLowMid, -⟩, ⟨hMidLong, -⟩, -⟩ := c.wf_iff.mp hwf
  obtain ⟨hrel, hlong⟩ := errLong_mem_raisedClasses.mp h
  obtain ⟨hr, -⟩ := acceptedRelease_mem_internalOps.mp hrel
  obtain ⟨hdisp, hwe⟩ := stepRule_showsError hrel (.inr hlong)
  refine ⟨hdisp, hwe, fun hhigh => ?_⟩
  have hdash : appendsOf (internalOps w r) = [true] := by
    rw [appendsOf_internalOps_of_acceptedRelease hwf hrel, holdSymbols_of_append (by omega) hhigh,
      decide_eq_true (by omega)]
  have hsym := stepRule_symbols w r hr
  rw [hdash] at hsym
  exact ⟨hdash, (Prod.mk.inj hsym).2⟩

theorem evtTimeout_alone_recorded (hwf : c.wf = true) (hr : w.rst = false) (h : raisedClasses w r = [.evtTimeout]) :
    (stepRule w r).disp = c.patBlank ∧ (stepRule w r).dispWe = true ∧ (stepRule w r).elapsed = 0 ∧
      (.acceptedPress ∉ internalOps w r → (stepRule w r).timing = false) ∧
      (stepRule w r).buf = r.buf ∧ (stepRule w r).cnt = r.cnt := by
  have hout : .timeout ∈ internalOps w r := evtTimeout_mem_raisedClasses.mp (by simp [h])
  have hrel := no_acceptedRelease_of_evtTimeout_alone hwf h
  obtain ⟨hdisp, hwe⟩ := stepRule_display_of_no_acceptedRelease hr hrel
  rw [beforeEdge_of_timeout hout] at hdisp hwe
  exact ⟨hdisp, hwe, stepRule_elapsed_of_timeout hout, fun hpress => (stepRule_stopped_of_stop (.inr hout) hpress).1,
    stepRule_buffer_kept hr (appendsOf_internalOps_of_no_acceptedRelease hr hrel)⟩

end Machine

open Machine

/-- Settles O41: the cause of each class by its membership lemma, and what is recorded of it by the lemma of the class. -/
theorem errorClassesRecorded : Obligations.ErrorClassesRecorded :=
  fun _ _ _ hwf hr => ⟨errNoise_mem_raisedClasses, errLong_mem_raisedClasses, evtTimeout_mem_raisedClasses,
    errNoise_recorded hwf, errLong_recorded hwf, evtTimeout_alone_recorded hwf hr⟩

/-- Settles O55: the first step drops the pulses, and the later ones find nothing more to drop. -/
theorem steadyIdleHasNoEffect : Obligations.SteadyIdleHasNoEffect := by
  intro c r ws hti hne hws
  cases ws with
  | nil => exact absurd rfl hne
  | cons w ws =>
    obtain ⟨⟨hr, hk⟩, hws⟩ := List.forall_mem_cons.mp hws
    rw [runWords, stepRule_steady_of_not_timing hti hr hk]
    exact runWords_pulseClear_steady ws hti hws

/-- Settles O14: a step with a word left is the step function of R54, every meaning is an update of the registers, and there is no
fault to answer. -/
theorem everyStepCompletes : Obligations.EveryStepCompletes :=
  ⟨fun s w rest hwf hin => ⟨_, step_eq_stepRule s w rest hwf hin⟩, exec_completes, nofun⟩

end Sys2Proof

/-! PROOFS. A reset step determines the run from there on (spec/70_reset_and_hazards.md R91). -/

namespace Sys2Proof

namespace Machine

variable {c : Config} {w : In3}

/-- A run that begins with a reset step goes on from the reset registers, which its start has no part in (R90). -/
theorem runWords_rst_cons (r : Regs c) (ws : List In3) (h : w.rst = true) :
    runWords r (w :: ws) = runWords (Regs.reset c w.key) ws := by
  rw [runWords, (stepRule_rst w r h).1]

end Machine

open Machine

/-- Settles O56: the run splits before the reset step, and from that step on both runs go on from the same reset registers. -/
theorem resetForgetsThePast : Obligations.ResetForgetsThePast := by
  intro c r r' before w after hrst
  calc runWords r (before ++ w :: after)
      = runWords (runWords r before) (w :: after) := runWords_append r before (w :: after)
    _ = runWords (Regs.reset c w.key) after := runWords_rst_cons _ after hrst
    _ = runWords r' (w :: after) := (runWords_rst_cons r' after hrst).symm

end Sys2Proof

/-! PROOFS. The end of a run (log entry 3): a step with no input word left. -/

namespace Sys2Proof

namespace Machine

/-- Under a configuration that the block takes, a fetch with no word left stops at the end of the run. -/
theorem fetch_endOfRun {s : State} (hwf : s.config.wf = true) (hin : s.inputs = []) : fetch s = .error .endOfRun := by
  simp [fetch, hwf, hin]

/-- A step is refused for the reason its fetch gives. -/
theorem step_refused_of_fetch_error {s : State} {e : Refusal} (hf : fetch s = .error e) : step s = .refused e := by
  simp [step, hf]

end Machine

open Machine

/-- Settles O13: the fetch finds no word, and the step passes its refusal on. -/
theorem noStepAfterLastWord : Obligations.NoStepAfterLastWord :=
  fun _ hwf hin => step_refused_of_fetch_error (fetch_endOfRun hwf hin)

end Sys2Proof
